-- ==== Sys2Proof/Word.lean ====
section
/-! DEFINITION. The value types of the KD block (00_scope.md R7, R10, R11): the byte, the wire word, the 32-bit
pattern, byte sequences, and the 96-bit Measurement (10_state.md R34). -/

namespace Sys2Proof

/-- A byte is 8 bits (R7); bit 0 is the least significant (R10). -/
abbrev Byte := BitVec 8

/-- A wire word is 16 bits (R7). -/
abbrev Word16 := BitVec 16

/-- A 32-bit pattern: a binary32 encoding that no rule interprets (R7, R34), or the cycle counter (R21). -/
abbrev Word32 := BitVec 32

/-- A byte sequence, first byte first on the wire or port (R11). A frame carries its length (R70). -/
abbrev Bytes := List Byte

/-- The opaque cause of a failed transport primitive (R6, R202), held as the bytes of its own encoding on the
host port (R73). DESIGN CHOICE, log entry 2; safe. -/
abbrev TransportCause := Bytes

/-- A Measurement (R34): three opaque 32-bit patterns in this fixed order. -/
structure Measurement where
  co2 : Word32
  temp : Word32
  hum : Word32
  deriving DecidableEq, Repr, Inhabited

end Sys2Proof
end

