-- ==== Sys2Proof/Machine/Crc.lean ====
section
/-! DEFINITION. The checksum engine and the validator (40_checksum.md R100, R102). One configuration serves every
call site (R105): polynomial 0x31, init 0xFF, not reflected, no final XOR. -/

namespace Sys2Proof.Machine

/-- One shift of the register (R100): the polynomial is XORed in when bit 7 is shifted out as 1. -/
def crcShift (c : Byte) : Byte :=
  if c.getLsbD 7 then (c <<< 1) ^^^ 0x31#8 else c <<< 1

/-- One data byte (R100): XOR it into the register, then shift 8 times. -/
def crcByte (c b : Byte) : Byte :=
  Nat.repeat crcShift 8 (c ^^^ b)

/-- The CRC-8 of a byte sequence of any length (R100), from init 0xFF. -/
def crc8 (d : Bytes) : Byte :=
  d.foldl crcByte 0xFF#8

/-- The validator (R102): the checksum byte matches the CRC of exactly the group's two data bytes. -/
def wordValid (hi lo c : Byte) : Bool :=
  crc8 [hi, lo] == c

end Sys2Proof.Machine
end

