-- ==== Sys2Proof/Machine/Operands.lean ====
section
/-! DEFINITION. Byte order, operand assembly and the payload decoder: R11, R52, R53, R54, R72, R82, R151, R152,
R153. Everything is big-endian. -/

namespace Sys2Proof.Machine

/-- `be16(hi, lo) = hi ‖ lo` (R11). -/
def be16 (hi lo : Byte) : Word16 := hi ++ lo

/-- `be32(b0, b1, b2, b3) = b0 ‖ b1 ‖ b2 ‖ b3` (R11). -/
def be32 (b0 b1 b2 b3 : Byte) : Word32 := (b0 ++ b1) ++ (b2 ++ b3)

/-- The more significant byte of a word. -/
def hi8 (w : Word16) : Byte := w.extractLsb' 8 8

/-- The less significant byte of a word. -/
def lo8 (w : Word16) : Byte := w.extractLsb' 0 8

/-- A 16-bit value most significant byte first (R52, R54). -/
def bytes16 (w : Word16) : Bytes := [hi8 w, lo8 w]

/-- A 32-bit value most significant byte first (R52, R54). -/
def bytes32 (x : Word32) : Bytes :=
  [x.extractLsb' 24 8, x.extractLsb' 16 8, x.extractLsb' 8 8, x.extractLsb' 0 8]

/-- The 12 result bytes of a measurement (R76): co2, temp, hum. -/
def bytesOfMeasurement (m : Measurement) : Bytes :=
  bytes32 m.co2 ++ (bytes32 m.temp ++ bytes32 m.hum)

/-- Two words of one 32-bit value, the more significant first (R53, R150, R151). -/
def joinWords (w0 w1 : Word16) : Word32 := w0 ++ w1

/-- The data words of a response, in wire order: `be16` of the first two bytes of each 3-byte group (R57, R82). -/
def dataWords : Bytes → List Word16
  | b0 :: b1 :: _ :: rest => be16 b0 b1 :: dataWords rest
  | _ => []

/-- Every word group of a response is valid (R82, R102, R128). -/
def groupsValid : Bytes → Bool
  | b0 :: b1 :: c :: rest => wordValid b0 b1 c && groupsValid rest
  | _ => true

/-- `decode_f32` (R151): the pattern of a 6-byte pair of groups; the two checksum bytes are dropped. -/
def decodeF32 (g : Bytes) : Word32 :=
  joinWords ((dataWords g).getD 0 0) ((dataWords g).getD 1 0)

/-- `encode_f32` (R153): what the sensor sends for a pattern. Not part of the block. -/
def encodeF32 (x : Word32) : Bytes :=
  let w0 : Word16 := x.extractLsb' 16 16
  let w1 : Word16 := x.extractLsb' 0 16
  [hi8 w0, lo8 w0, crc8 (bytes16 w0), hi8 w1, lo8 w1, crc8 (bytes16 w1)]

/-- The measurement of the six data words of a response (R150, R152): co2, temperature, humidity. -/
def measurementOfWords (ws : List Word16) : Measurement where
  co2 := joinWords (ws.getD 0 0) (ws.getD 1 0)
  temp := joinWords (ws.getD 2 0) (ws.getD 3 0)
  hum := joinWords (ws.getD 4 0) (ws.getD 5 0)

/-- A read delivers exactly `n` bytes (R55). Log entry 5. -/
def exactly (n : Nat) (b : Bytes) : Bytes := (b ++ List.replicate n 0#8).take n

end Sys2Proof.Machine
end

