-- ==== Sys2Proof/Syntax.lean ====
section
/-! DEFINITION. The instructions: one constructor per row of spec/opcode_table.json, the 13 host requests
(30_encoding.md R76) and the 4 wire commands (R80). -/

namespace Sys2Proof

/-- The two levels of encoding (30_encoding.md): frames on the host port, byte sequences on the two-wire bus. -/
inductive Port where
  | host
  | wire
  deriving DecidableEq, Repr

/-- One constructor per row of the opcode table, with the operands of its format (R71, R80). -/
inductive Instr where
  /-- CRC8 (R101): the data bytes; the count L is their number (R84). -/
  | crc8 (d : Bytes)
  /-- CRC_CHECK (R103): the data word and the checksum to check. -/
  | crcCheck (b0 b1 c : Byte)
  /-- FW_VERSION (R130). -/
  | fwVersion
  /-- MEAS_READY (R135). -/
  | measReady
  /-- START_CONT (R140): the pressure. -/
  | startCont (p : Word16)
  /-- GET_MEAS (R150). -/
  | getMeas
  /-- HIST_PUSH (R160): the measurement's three patterns. -/
  | histPush (co2 temp hum : Word32)
  /-- HIST_LEN (R163). -/
  | histLen
  /-- HIST_FULL (R164). -/
  | histFull
  /-- HIST_READ (R166): the position, 0 the oldest. -/
  | histRead (i : Word16)
  /-- HIST_CAP (R170). -/
  | histCap
  /-- SCHED_STEP (R180). -/
  | schedStep
  /-- SCHED_READ (R184). -/
  | schedRead
  /-- read-firmware-version (R80). -/
  | readFirmwareVersion
  /-- poll-ready (R80). -/
  | pollReady
  /-- read-measurement (R80). -/
  | readMeasurement
  /-- start-continuous-measurement (R80): the pressure and byte 4, its checksum (R81). -/
  | startContinuousMeasurement (p : Word16) (c : Byte)
  deriving DecidableEq, Repr

/-- The level a row belongs to: the table's "level". -/
def Instr.port : Instr → Port
  | .crc8 _ => .host
  | .crcCheck _ _ _ => .host
  | .fwVersion => .host
  | .measReady => .host
  | .startCont _ => .host
  | .getMeas => .host
  | .histPush _ _ _ => .host
  | .histLen => .host
  | .histFull => .host
  | .histRead _ => .host
  | .histCap => .host
  | .schedStep => .host
  | .schedRead => .host
  | .readFirmwareVersion => .wire
  | .pollReady => .wire
  | .readMeasurement => .wire
  | .startContinuousMeasurement _ _ => .wire

end Sys2Proof
end

