-- ==== Sys2Proof/WellFormed.lean ====
section
/-! DEFINITION. Which instructions have an encoding: the data of CRC8 has a one-byte count (30_encoding.md R71,
40_checksum.md R101), and byte 4 of start-continuous-measurement is the checksum of its pressure (R80, R81). Every
other operand takes every value of its width (R72). -/

namespace Sys2Proof

/-- The check on an instruction's operands (R71, R81). -/
def Instr.wellFormed : Instr → Bool
  | .crc8 d => decide (d.length ≤ 255)
  | .crcCheck _ _ _ => true
  | .fwVersion => true
  | .measReady => true
  | .startCont _ => true
  | .getMeas => true
  | .histPush _ _ _ => true
  | .histLen => true
  | .histFull => true
  | .histRead _ => true
  | .histCap => true
  | .schedStep => true
  | .schedRead => true
  | .readFirmwareVersion => true
  | .pollReady => true
  | .readMeasurement => true
  | .startContinuousMeasurement p c => c == Machine.crc8 (Machine.bytes16 p)

end Sys2Proof
end

