-- ==== Sys2Proof/Decode.lean ====
section
/-! DEFINITION. The decoder of the two encodings (30_encoding.md R71, R75, R76, R78, R80), total on any bytes, and
the encoder (R80, R85). -/

namespace Sys2Proof

open Machine (be16 be32 bytes16 bytes32)

/-- Why bytes are no instruction: the two decode errors of R75 for a host frame, and bytes that are none of the
four wire commands (R83). -/
inductive DecodeError where
  | badLength
  | illegalOpcode
  | notAWireCommand
  deriving DecidableEq, Repr

/-- Format `H0` (R71): no operand bytes. -/
def decodeH0 (i : Instr) : Bytes → Except DecodeError Instr
  | [] => .ok i
  | _ => .error .badLength

/-- Format `HCRC` (R71, R75): the count L, then exactly L data bytes. -/
def decodeHCRC (i : Bytes → Instr) : Bytes → Except DecodeError Instr
  | count :: d => if d.length = count.toNat then .ok (i d) else .error .badLength
  | [] => .error .badLength

/-- Format `HCHK` (R71): three operand bytes. -/
def decodeHCHK (i : Byte → Byte → Byte → Instr) : Bytes → Except DecodeError Instr
  | [b0, b1, c] => .ok (i b0 b1 c)
  | _ => .error .badLength

/-- Format `H16` (R71): one 16-bit operand. -/
def decodeH16 (i : Word16 → Instr) : Bytes → Except DecodeError Instr
  | [hi, lo] => .ok (i (be16 hi lo))
  | _ => .error .badLength

/-- Format `HM` (R71): three 32-bit operands. -/
def decodeHM (i : Word32 → Word32 → Word32 → Instr) : Bytes → Except DecodeError Instr
  | [a0, a1, a2, a3, b0, b1, b2, b3, c0, c1, c2, c3] =>
    .ok (i (be32 a0 a1 a2 a3) (be32 b0 b1 b2 b3) (be32 c0 c1 c2 c3))
  | _ => .error .badLength

/-- A host request frame (R75): empty, then the opcode map (R76, R78), then the format's length. -/
def decodeHost : Bytes → Except DecodeError Instr
  | [] => .error .badLength
  | opc :: ops =>
    match opc.toNat with
    | 0x01 => decodeHCRC .crc8 ops
    | 0x02 => decodeHCHK .crcCheck ops
    | 0x10 => decodeH0 .fwVersion ops
    | 0x11 => decodeH0 .measReady ops
    | 0x12 => decodeH16 .startCont ops
    | 0x13 => decodeH0 .getMeas ops
    | 0x20 => decodeHM .histPush ops
    | 0x21 => decodeH0 .histLen ops
    | 0x22 => decodeH0 .histFull ops
    | 0x23 => decodeH16 .histRead ops
    | 0x24 => decodeH0 .histCap ops
    | 0x30 => decodeH0 .schedStep ops
    | 0x31 => decodeH0 .schedRead ops
    | _ => .error .illegalOpcode

/-- A wire command (R80): the command word, big-endian (R52, R81), then the pressure word and its checksum byte in
the one command that has them. No other byte sequence is a wire command (R83). -/
def decodeWire : Bytes → Except DecodeError Instr
  | [hi, lo] =>
    match (be16 hi lo).toNat with
    | 0xD100 => .ok .readFirmwareVersion
    | 0x0202 => .ok .pollReady
    | 0x0300 => .ok .readMeasurement
    | _ => .error .notAWireCommand
  | [hi, lo, p1, p0, c] =>
    if (be16 hi lo).toNat = 0x0010 then .ok (.startContinuousMeasurement (be16 p1 p0) c)
    else .error .notAWireCommand
  | _ => .error .notAWireCommand

/-- The decoder of each level. -/
def decode : Port → Bytes → Except DecodeError Instr
  | .host, b => decodeHost b
  | .wire, b => decodeWire b

/-- The bytes of an instruction: the frame of R85, or the bytes written by R80. -/
def encode : Instr → Bytes
  | .crc8 d => 0x01#8 :: BitVec.ofNat 8 d.length :: d
  | .crcCheck b0 b1 c => [0x02#8, b0, b1, c]
  | .fwVersion => [0x10#8]
  | .measReady => [0x11#8]
  | .startCont p => 0x12#8 :: bytes16 p
  | .getMeas => [0x13#8]
  | .histPush co2 temp hum => 0x20#8 :: (bytes32 co2 ++ (bytes32 temp ++ bytes32 hum))
  | .histLen => [0x21#8]
  | .histFull => [0x22#8]
  | .histRead i => 0x23#8 :: bytes16 i
  | .histCap => [0x24#8]
  | .schedStep => [0x30#8]
  | .schedRead => [0x31#8]
  | .readFirmwareVersion => [0xD1#8, 0x00#8]
  | .pollReady => [0x02#8, 0x02#8]
  | .readMeasurement => [0x03#8, 0x00#8]
  | .startContinuousMeasurement p c => 0x00#8 :: 0x10#8 :: (bytes16 p ++ [c])

/-- The length in bytes of a host frame with these first bytes (R71, R79), or 1 where byte 0 is no opcode. -/
def requestLength (b : Bytes) : Nat :=
  match (b.getD 0 0).toNat with
  | 0x01 => 2 + (b.getD 1 0).toNat
  | 0x02 => 4
  | 0x12 => 3
  | 0x20 => 13
  | 0x23 => 3
  | _ => 1

/-- Bytes followed by zeros up to `n` bytes in all. -/
def padTo (n : Nat) (b : Bytes) : Bytes := b ++ List.replicate (n - b.length) 0#8

/-- The first `k` bytes of a number, bits 7..0 first: how the table numbers the bits of byte-wide words. -/
def bytesUp : Nat → Nat → Bytes
  | 0, _ => []
  | k + 1, w => BitVec.ofNat 8 w :: bytesUp k (w / 256)

/-- The bits of a table row laid out as bytes, with the level they belong to. The host rows give 8-bit words, byte
0 in bits 7..0. The wire rows give one 16-bit word that is sent big-endian (R80, R81), the more significant byte
first. Everything above the given bits is zero. DESIGN CHOICE, log entry 14; safe. -/
def tableBytes (nbits w : Nat) : Port × Bytes :=
  let word : Word16 := BitVec.ofNat 16 w
  let wire : Bytes := bytes16 word ++ bytesUp (nbits / 8 - 2) (w / 65536)
  let host : Bytes := bytesUp (nbits / 8) w
  if nbits = 16 ∨ nbits = 40 then
    match word.toNat with
    | 0xD100 => (.wire, wire)
    | 0x0202 => (.wire, wire)
    | 0x0300 => (.wire, wire)
    | 0x0010 => (.wire, padTo 5 wire)
    | _ => (.host, padTo (requestLength host) host)
  else (.host, padTo (requestLength host) host)

/-- The instruction the decoder reads from a table row's bits. -/
def decodeTableWord (nbits w : Nat) : Option Instr :=
  match decode (tableBytes nbits w).1 (tableBytes nbits w).2 with
  | .ok i => some i
  | .error _ => none

end Sys2Proof
end

