-- ==== Sys2Proof/Config.lean ====
section
/-! DEFINITION. The words the block exchanges with the outside (statuses R73, bus primitives R12 and R120, events
R67, oracle answers R55), the configuration (00_scope.md R6) and the free values of the model. -/

namespace Sys2Proof

/-- The statuses of a response (R73). No other code is ever emitted (R78). -/
inductive Status where
  | ok
  | checksumMismatch
  | transportFailure
  | illegalOpcode
  | badLength
  | indexRange
  deriving DecidableEq, Repr

/-- One call of a transport primitive (R12, R120). -/
inductive BusOp where
  | write (addr : BitVec 7) (bytes : Bytes)
  | read (addr : BitVec 7) (n : Nat)
  deriving DecidableEq, Repr

/-- What a `BusWrite` returned (R12). -/
inductive WriteOutcome where
  | ok
  | err (cause : TransportCause)
  deriving DecidableEq, Repr

/-- What a `BusRead` returned (R12). -/
inductive ReadOutcome where
  | ok (bytes : Bytes)
  | err (cause : TransportCause)
  deriving DecidableEq, Repr

/-- The external interactions a model records (R67). -/
inductive Event where
  | write (addr : BitVec 7) (bytes : Bytes) (outcome : WriteOutcome)
  | pause (atLeast : Nat)
  | read (addr : BitVec 7) (n : Nat) (outcome : ReadOutcome)
  | resp (status : Status) (fields : Bytes)
  deriving DecidableEq, Repr

/-- The oracle's answer to a transport primitive (R55). `pending` says that the primitive has not returned yet
(R56); `ok` carries the bytes a read delivers and is read as `Ok` alone by a write. Log entries 4, 5 and 6. -/
inductive Answer where
  | ok (bytes : Bytes)
  | err (cause : TransportCause)
  | pending
  deriving DecidableEq, Repr, Inhabited

/-- The parameters of R6 that the block is built with. The widths of the fields give the upper bounds of R6 for
`HIST_CAP` and `REFRESH_K` and the 7 bits of `DEV_ADDR`. `T_PAUSE` is counted in a unit nothing fixes
(DESIGN CHOICE, log entry 3; safe: no rule depends on a time value, R231). -/
structure Config where
  histCap : Word16
  refreshK : Word32
  devAddr : BitVec 7
  tPause : Nat
  deriving DecidableEq, Repr

/-- The bounds a configuration must meet before reset is released (R6, R223). -/
def Config.legal (c : Config) : Bool :=
  !(c.histCap == 0) && (!(c.refreshK == 0) && !(c.tPause == 0))

/-- `HIST_CAP` less 1: OPEN (R6, D7), so that the capacity is any of 1..65535. Log entry 1. -/
opaque Config.histCapLess1 : Fin 65535

/-- `REFRESH_K` less 1: OPEN (R6, D8), so that the modulus is any of 1..2^32-1. Log entry 1. -/
opaque Config.refreshKLess1 : Fin 4294967295

/-- `DEV_ADDR`: OPEN (R6, R51, D6). Log entry 1. -/
opaque Config.devAddrOpen : BitVec 7

/-- `T_PAUSE` less 1: OPEN (R6, D10). Log entries 1 and 3. -/
opaque Config.tPauseLess1 : Nat

/-- The configuration the block is built with: legal by R6 and otherwise open. Log entry 1. -/
def Config.built : Config where
  histCap := BitVec.ofNatLT (Config.histCapLess1.val + 1) (by omega)
  refreshK := BitVec.ofNatLT (Config.refreshKLess1.val + 1) (by omega)
  devAddr := Config.devAddrOpen
  tPause := Config.tPauseLess1 + 1

/-- FREE VALUE (R55, U4, U5, U16, U17): the oracle's answer to the draw with this number, which may depend on the
events so far and on the primitive called. Nothing constrains it. Log entry 4. -/
opaque Config.oracle : Nat → List Event → BusOp → Answer

/-- FREE VALUE (R25, U7): what a history slot that was never written holds. Log entry 7. -/
opaque Config.slotContents : Nat → Measurement

end Sys2Proof
end

