-- ==== Sys2Proof/Machine/State.lean ====
section
/-! DEFINITION. The state of the block (10_state.md R20, 70_reset_and_hazards.md R220), the reasons a step stops,
and the state after reset. -/

namespace Sys2Proof.Machine

/-- The refresh modes (R20, R21): Full is 0, Quick is 1. -/
inductive Mode where
  | full
  | quick
  deriving DecidableEq, Repr

/-- Whether a request is in progress (R20, R74). -/
inductive PortState where
  | idle
  | busy
  deriving DecidableEq, Repr

/-- The framer's phases (R122), `none` when no protocol request is in progress (R220). -/
inductive Phase where
  | none
  | write
  | pause
  | read
  | check
  deriving DecidableEq, Repr

/-- The instants inside a transaction (R122, R124) at which a reset shows in the record of R67: once a write has
returned (phase WRITE is over), once the pause has lasted (phase PAUSE is over), and once a read has returned (phase
READ is over). Log entry 10. -/
inductive ResetPoint where
  | afterWrite
  | afterPause
  | afterRead
  deriving DecidableEq, Repr

/-- The history storage (R20, R62): the slots that hold an entry, as pairs of slot number and entry, numbers strictly
rising. A slot that is not listed holds no value (R25). -/
abbrev Memory := List (Nat × Measurement)

/-- The whole machine. Plain data. -/
structure State where
  /-- The configuration the block was built with (R6, R9). No step changes it. Log entry 1. -/
  cfg : Config
  /-- `update_count` (R20, R21). -/
  updateCount : Word32
  /-- `mode` (R20, R21). -/
  mode : Mode
  /-- `hist_slot[0..HIST_CAP-1]` (R20, R22). -/
  histSlot : Memory
  /-- `hist_head` (R20): the slot of the oldest entry. -/
  histHead : Word16
  /-- `hist_count` (R20): the number of valid entries. -/
  histCount : Word16
  /-- `port_state` (R20, R74). -/
  portState : PortState
  /-- The framer phase (R122, R220). -/
  phase : Phase
  /-- The wire command in progress: `cmd` of R122, empty with phase `none`. -/
  cmd : Bytes
  /-- The response bytes in progress: `s` of R122, empty with phase `none`. -/
  rx : Bytes
  /-- MODEL's own: the level of the reset input (R221) before the next step. Log entry 10. -/
  resetIn : Bool
  /-- MODEL's own: the instant of a transaction at which the platform next asserts the reset input (R221), if it does
  so inside one. Log entry 10. -/
  resetAt : Option ResetPoint
  /-- MODEL's own: the host's finite sequence of request frames (R27, R70). Log entry 11. -/
  program : List Bytes
  /-- The index of the host's next request (R27). Log entry 11. -/
  pc : Nat
  /-- MODEL's own: the record of external interactions, oldest first (R67). Log entry 16. -/
  events : List Event
  /-- MODEL's own: the oracle's answers that are already known, next first (R55). Log entry 4. -/
  answers : List Answer
  /-- MODEL's own: how many answers were drawn (R55). Log entry 4. -/
  draws : Nat
  deriving DecidableEq, Repr

/-- Why the machine stops. The block itself has no faults: every error is a status (R200). -/
inductive Fault where
  /-- The framer holds bytes that are none of the four wire commands. Raised by `step` in a state that no run
  reaches, since the framer never holds others (R83). Safe. Log entry 19. -/
  | badWireCommand
  deriving DecidableEq, Repr

/-- Why the machine does not run. -/
inductive Refusal where
  /-- An instruction that has no meaning yet. Raised by `exec`'s refused arms alone. Safe. -/
  | notModelled (mnemonic : String)
  /-- The configuration breaks the bounds of R6 (R223, U15): "A model refuses a configuration that breaks these
  bounds". Raised by `step` and by every meaning. Safe. Log entry 20. -/
  | illegalConfiguration
  deriving DecidableEq, Repr

/-- The state after reset (R220), with the open configuration (R6) and nothing presented on any port. -/
def State.reset : State where
  cfg := Config.built
  updateCount := 0
  mode := .full
  histSlot := []
  histHead := 0
  histCount := 0
  portState := .idle
  phase := .none
  cmd := []
  rx := []
  resetIn := false
  resetAt := none
  program := []
  pc := 0
  events := []
  answers := []
  draws := 0

end Sys2Proof.Machine
end

