-- ==== Sys2Proof/Machine/Flags.lean ====
section
/-! DEFINITION. The one-bit results (10_state.md R28) and the result byte encodings (30_encoding.md R73, R77). -/

namespace Sys2Proof.Machine

/-- The status byte (R73). -/
def statusByte : Status → Byte
  | .ok => 0x00
  | .checksumMismatch => 0x01
  | .transportFailure => 0x02
  | .illegalOpcode => 0x03
  | .badLength => 0x04
  | .indexRange => 0x05

/-- The response frame of a `Resp` event (R73): the status byte, then the fields. -/
def responseFrame (st : Status) (fields : Bytes) : Bytes := statusByte st :: fields

/-- A Boolean result byte (R77). -/
def boolByte (b : Bool) : Byte := if b then 0x01 else 0x00

/-- A mode byte (R77). -/
def modeByte : Mode → Byte
  | .full => 0x00
  | .quick => 0x01

/-- `select(c)` (R181): Full exactly when the count is a multiple of the modulus. -/
def select (k c : Word32) : Mode :=
  if c.toNat % k.toNat = 0 then .full else .quick

/-- `ready` (R28, R135, R136): the word equals exactly 1. -/
def isReady (w : Word16) : Bool := w == 0x0001#16

/-- `full` (R28, R164). -/
def State.isFull (s : State) : Bool := s.histCount == s.cfg.histCap

/-- The output signal `refresh_mode` (R30): it always equals `mode`. -/
def State.refreshMode (s : State) : Mode := s.mode

end Sys2Proof.Machine
end

