-- ==== Sys2Proof/Machine/Ops.lean ====
section
/-! DEFINITION. The operations the meanings share: the history storage, accepting and ending a request, the error
response (the block's only exception mechanism, 60_exceptions.md R200), the transport primitives, the transaction of
41_protocol.md R122, and reset. -/

namespace Sys2Proof.Machine

/-! ## The history storage (R20, R22, R25, R62) -/

/-- The canonical form: slot numbers strictly rising. -/
def Memory.wf : Memory → Bool
  | [] => true
  | [_] => true
  | (j, _) :: (k, y) :: rest => decide (j < k) && Memory.wf ((k, y) :: rest)

/-- The entry a slot holds, if it holds one. -/
def Memory.read : Memory → Nat → Option Measurement
  | [], _ => none
  | (k, x) :: rest, j => if j = k then some x else Memory.read rest j

/-- One whole entry is written (R62). -/
def Memory.write : Memory → Nat → Measurement → Memory
  | [], j, m => [(j, m)]
  | (k, x) :: rest, j, m =>
    if j < k then (j, m) :: (k, x) :: rest
    else if j = k then (j, m) :: rest
    else (k, x) :: Memory.write rest j m

/-- What a slot reads as: its entry, or the free value where it holds none (R25, U7). Log entry 7. -/
def State.readSlot (s : State) (j : Nat) : Measurement :=
  match Memory.read s.histSlot j with
  | some m => m
  | none => Config.slotContents j

/-- The slot of position `i` (R22): the sum is not truncated before the `mod` (R162). -/
def State.slotIndex (s : State) (i : Nat) : Nat :=
  (s.histHead.toNat + i) % s.cfg.histCap.toNat

/-- The entry at position `i`, 0 the oldest (R22). -/
def State.entryAt (s : State) (i : Nat) : Measurement := s.readSlot (s.slotIndex i)

/-- The sequence the history holds, oldest first (R22). -/
def State.history (s : State) : List Measurement :=
  (List.range s.histCount.toNat).map s.entryAt

/-- The state change of a push (R160). -/
def State.pushEntry (s : State) (m : Measurement) : State :=
  if s.histCount.toNat < s.cfg.histCap.toNat then
    { s with
      histSlot := Memory.write s.histSlot (s.slotIndex s.histCount.toNat) m
      histCount := s.histCount + 1 }
  else
    { s with
      histSlot := Memory.write s.histSlot s.histHead.toNat m
      histHead := BitVec.ofNat 16 (s.slotIndex 1) }

/-! ## Requests (R67, R73, R74, R200) -/

/-- Record one external interaction (R67). -/
def State.record (s : State) (e : Event) : State := { s with events := s.events ++ [e] }

/-- A request frame is accepted: the port is Busy (R74). -/
def State.accept (s : State) : State := { s with portState := .busy }

/-- `respond(status, fields…)` (R12): the response is emitted, the request ends, the port is Idle again (R74), the
framer keeps nothing (R24), and the host's index advances by one (R27). -/
def State.respond (s : State) (st : Status) (fields : Bytes) : State :=
  { s with
    events := s.events ++ [.resp st fields]
    portState := .idle
    phase := .none
    cmd := []
    rx := []
    pc := s.pc + 1 }

/-- `raise <Status>(info)` (R12, R200): an error is the status of the response and nothing else. This is the one
way an error is taken; nothing is saved and there is no return from it (R200, R207). -/
def State.raise (s : State) (st : Status) (info : Bytes) : State := s.respond st info

/-- A host request runs (R74): accepted while Idle, held while Busy (log entry 22), and never under an illegal
configuration (R223). -/
def serve (s : State) (run : State → State) : Host.Outcome State Fault Refusal :=
  if s.cfg.legal then
    match s.portState with
    | .idle => .next (run s.accept)
    | .busy => .next s
  else .refused .illegalConfiguration

/-- The framer runs a wire command, never under an illegal configuration (R223). -/
def serveWire (s : State) (run : State → State) : Host.Outcome State Fault Refusal :=
  if s.cfg.legal then .next (run s) else .refused .illegalConfiguration

/-! ## Reset (R220, R221) -/

/-- The reset input is taken (R220, R221): every element of state as after reset, a request in progress ends with no
response, the configuration stays. What stands outside the block (the host's sequence, the record, the oracle) is not
reset. Log entry 10. -/
def State.takeReset (s : State) : State :=
  { State.reset with
    cfg := s.cfg
    program := s.program
    pc := s.pc
    events := s.events
    answers := s.answers
    draws := s.draws }

/-- An instant inside a transaction at which the reset input is looked at (R221): asserted, it ends the request with no
response; else the transaction goes on. Log entry 10. -/
def orReset (p : ResetPoint) (next : State → State) (s : State) : State :=
  if s.resetAt = some p then s.takeReset else next s

/-! ## The transport primitives (R55, R56, R120) -/

/-- The oracle's answer to a primitive (R55): the next known one, else the free value. Log entry 4. -/
def State.answerTo (s : State) (op : BusOp) : Answer :=
  match s.answers with
  | a :: _ => a
  | [] => Config.oracle s.draws s.events op

/-- One answer is drawn. -/
def State.consume (s : State) : State :=
  { s with answers := s.answers.tail, draws := s.draws + 1 }

/-- Phase WRITE with the command to write (R122). -/
def State.enterWrite (s : State) (cmd : Bytes) : State :=
  { s with portState := .busy, phase := .write, cmd := cmd }

/-- Phase PAUSE, and the pause of at least `T_PAUSE` (R127). -/
def State.doPause (s : State) : State :=
  { s with phase := .pause, events := s.events ++ [.pause s.cfg.tPause] }

/-- Phase READ (R122). -/
def State.enterRead (s : State) : State := { s with phase := .read }

/-- Phase CHECK with the bytes that were read (R122). -/
def State.enterCheck (s : State) (b : Bytes) : State := { s with phase := .check, rx := b }

/-- `BusWrite(DEV_ADDR, cmd)` (R120, R51): an error ends the request with nothing after it (R13, R126); `Ok` goes on
to `next`; a primitive that has not returned leaves the request Busy in phase WRITE (R56). Every answer that ends
the primitive is an event (R67), after which a reset may fall (R221). -/
def busWrite (cmd : Bytes) (next : State → State) (s : State) : State :=
  let s := s.enterWrite cmd
  let addr := s.cfg.devAddr
  match s.answerTo (.write addr cmd) with
  | .ok _ => orReset .afterWrite next (s.consume.record (.write addr cmd .ok))
  | .err c => orReset .afterWrite (fun s => s.raise .transportFailure c) (s.consume.record (.write addr cmd (.err c)))
  | .pending => s.consume

/-- `BusRead(DEV_ADDR, n)` (R120, R51, R59): exactly `n` bytes (R55) or an error that ends the request (R13); a
primitive that has not returned leaves the request Busy in phase READ (R56). A reset may fall once it has returned
(R221). -/
def busRead (n : Nat) (next : State → State) (s : State) : State :=
  let s := s.enterRead
  let addr := s.cfg.devAddr
  match s.answerTo (.read addr n) with
  | .ok b =>
    orReset .afterRead next ((s.consume.record (.read addr n (.ok (exactly n b)))).enterCheck (exactly n b))
  | .err c => orReset .afterRead (fun s => s.raise .transportFailure c) (s.consume.record (.read addr n (.err c)))
  | .pending => s.consume

/-- Phase CHECK (R122, R128): every group first, then the fields the request decodes from the data words. -/
def checkPhase (fields : List Word16 → Bytes) (s : State) : State :=
  if groupsValid s.rx then s.respond .ok (fields (dataWords s.rx))
  else s.raise .checksumMismatch []

/-- Phases READ and CHECK (R122). -/
def readPhase (n : Nat) (fields : List Word16 → Bytes) (s : State) : State :=
  busRead n (checkPhase fields) s

/-- Phases PAUSE, READ and CHECK (R122, R127). A reset may fall between the pause and the read (R221). -/
def pausePhase (n : Nat) (fields : List Word16 → Bytes) (s : State) : State :=
  orReset .afterPause (readPhase n fields) s.doPause

/-- `transact(cmd, n)` (R122) from its first phase, and the response of the request's rule. -/
def transact (cmd : Bytes) (n : Nat) (fields : List Word16 → Bytes) (s : State) : State :=
  busWrite cmd (pausePhase n fields) s

/-- The same transaction from the phase the framer stands in: a primitive that had not returned is asked again
(R56). The command is not written twice (R61). Log entries 6 and 12. -/
def resume (cmd : Bytes) (n : Nat) (fields : List Word16 → Bytes) (s : State) : State :=
  match s.phase with
  | .none => transact cmd n fields s
  | .write => transact cmd n fields s
  | .pause => pausePhase n fields s
  | .read => readPhase n fields s
  | .check => checkPhase fields s

/-- The transaction of a command with no response (R124, R140): one write, no pause, no read. -/
def writeOnly (cmd : Bytes) (s : State) : State :=
  busWrite cmd (fun s => s.respond .ok []) s

/-! ## The decodes of the protocol requests' responses -/

/-- FW_VERSION (R130): major, minor. -/
def fwFields (ws : List Word16) : Bytes := bytes16 (ws.getD 0 0)

/-- MEAS_READY (R135, R136): the ready byte. -/
def readyFields (ws : List Word16) : Bytes := [boolByte (isReady (ws.getD 0 0))]

/-- GET_MEAS (R150): the three patterns. -/
def measFields (ws : List Word16) : Bytes := bytesOfMeasurement (measurementOfWords ws)

/-! ## Malformed frames -/

/-- Bytes that are no instruction: the decode error's status (R75, R203, R204), with no other effect. -/
def rejectBytes (e : DecodeError) (s : State) : Host.Outcome State Fault Refusal :=
  match e with
  | .badLength => .next (s.accept.raise .badLength [])
  | .illegalOpcode => .next (s.accept.raise .illegalOpcode [])
  | .notAWireCommand => .fault .badWireCommand

end Sys2Proof.Machine
end

