-- ==== Sys2Proof/Machine/Checksum.lean ====
section
/-! DEFINITION. The checksum engine's requests: 40_checksum.md R101, R103. -/

namespace Sys2Proof.Machine

/-- CRC8 (R101). -/
def execCrc8 (d : Bytes) (s : State) : Host.Outcome State Fault Refusal :=
  serve s fun s => s.respond .ok [crc8 d]

/-- CRC_CHECK (R103): a mismatch is a result, not a status. -/
def execCrcCheck (b0 b1 c : Byte) (s : State) : Host.Outcome State Fault Refusal :=
  serve s fun s => s.respond .ok [boolByte (wordValid b0 b1 c)]

end Sys2Proof.Machine
end

