-- ==== Sys2Proof/Machine/History.lean ====
section
/-! DEFINITION. The measurement history's requests: 42_history.md R160, R163, R164, R166, R170. -/

namespace Sys2Proof.Machine

/-- HIST_PUSH (R160). -/
def execHistPush (co2 temp hum : Word32) (s : State) : Host.Outcome State Fault Refusal :=
  serve s fun s => (s.pushEntry { co2 := co2, temp := temp, hum := hum }).respond .ok []

/-- HIST_LEN (R163). -/
def execHistLen (s : State) : Host.Outcome State Fault Refusal :=
  serve s fun s => s.respond .ok (bytes16 s.histCount)

/-- HIST_FULL (R164). -/
def execHistFull (s : State) : Host.Outcome State Fault Refusal :=
  serve s fun s => s.respond .ok [boolByte s.isFull]

/-- HIST_READ (R166, R205). -/
def execHistRead (i : Word16) (s : State) : Host.Outcome State Fault Refusal :=
  serve s fun s =>
    if s.histCount.toNat ≤ i.toNat then s.raise .indexRange []
    else s.respond .ok (bytesOfMeasurement (s.entryAt i.toNat))

/-- HIST_CAP (R170). -/
def execHistCap (s : State) : Host.Outcome State Fault Refusal :=
  serve s fun s => s.respond .ok (bytes16 s.cfg.histCap)

end Sys2Proof.Machine
end

