-- ==== Sys2Proof/Machine/Protocol.lean ====
section
/-! DEFINITION. The protocol framer's four requests: 41_protocol.md R121, R130, R135, R140, R150. The bytes written
are the encodings of the wire commands they use (30_encoding.md R80). -/

namespace Sys2Proof.Machine

/-- FW_VERSION (R130). -/
def execFwVersion (s : State) : Host.Outcome State Fault Refusal :=
  serve s (transact (encode .readFirmwareVersion) 3 fwFields)

/-- MEAS_READY (R135). -/
def execMeasReady (s : State) : Host.Outcome State Fault Refusal :=
  serve s (transact (encode .pollReady) 3 readyFields)

/-- START_CONT (R140): the checksum covers the pressure word alone (R81); every pressure is sent as given. -/
def execStartCont (p : Word16) (s : State) : Host.Outcome State Fault Refusal :=
  serve s (writeOnly (encode (.startContinuousMeasurement p (crc8 (bytes16 p)))))

/-- GET_MEAS (R150): readiness is not checked first. -/
def execGetMeas (s : State) : Host.Outcome State Fault Refusal :=
  serve s (transact (encode .readMeasurement) 18 measFields)

end Sys2Proof.Machine
end

