-- ==== Sys2Proof/Machine/Scheduler.lean ====
section
/-! DEFINITION. The refresh-state machine's requests: 43_scheduler.md R180, R184. -/

namespace Sys2Proof.Machine

/-- The transition rule (R180, R181, R182): the mode of the count before the increment, then a wrapping increment. -/
def State.stepScheduler (s : State) : State :=
  { s with
    mode := select s.cfg.refreshK s.updateCount
    updateCount := s.updateCount + 1 }

/-- SCHED_STEP (R180): the response carries the mode just chosen. -/
def execSchedStep (s : State) : Host.Outcome State Fault Refusal :=
  serve s fun s => s.stepScheduler.respond .ok [modeByte s.stepScheduler.mode]

/-- SCHED_READ (R184). -/
def execSchedRead (s : State) : Host.Outcome State Fault Refusal :=
  serve s fun s => s.respond .ok (bytes32 s.updateCount ++ [modeByte s.mode])

end Sys2Proof.Machine
end

