-- ==== Sys2Proof/Machine/Wire.lean ====
section
/-! DEFINITION. The four wire commands (30_encoding.md R80): the framer runs the transaction of R122 or R124 for the
command from the phase it stands in, and ends the host request that uses the command. Log entry 12. -/

namespace Sys2Proof.Machine

/-- read-firmware-version (R80, R123), used by FW_VERSION (R130). -/
def execReadFirmwareVersion (s : State) : Host.Outcome State Fault Refusal :=
  serveWire s (resume (encode .readFirmwareVersion) 3 fwFields)

/-- poll-ready (R80, R123), used by MEAS_READY (R135). -/
def execPollReady (s : State) : Host.Outcome State Fault Refusal :=
  serveWire s (resume (encode .pollReady) 3 readyFields)

/-- read-measurement (R80, R123), used by GET_MEAS (R150). -/
def execReadMeasurement (s : State) : Host.Outcome State Fault Refusal :=
  serveWire s (resume (encode .readMeasurement) 18 measFields)

/-- start-continuous-measurement (R80, R81, R124), used by START_CONT (R140). Log entry 13. -/
def execStartContinuousMeasurement (p : Word16) (c : Byte) (s : State) : Host.Outcome State Fault Refusal :=
  serveWire s (writeOnly (encode (.startContinuousMeasurement p c)))

end Sys2Proof.Machine
end

