-- ==== Sys2Proof/Machine/Dispatch.lean ====
section
/-! DEFINITION. One arm per constructor of Instr. -/

namespace Sys2Proof.Machine

def exec (i : Instr) (s : State) : Host.Outcome State Fault Refusal :=
  match i with
  | .crc8 d => Sys2Proof.Machine.execCrc8 d s
  | .crcCheck b0 b1 c => Sys2Proof.Machine.execCrcCheck b0 b1 c s
  | .fwVersion => Sys2Proof.Machine.execFwVersion s
  | .measReady => Sys2Proof.Machine.execMeasReady s
  | .startCont p => Sys2Proof.Machine.execStartCont p s
  | .getMeas => Sys2Proof.Machine.execGetMeas s
  | .histPush co2 temp hum => Sys2Proof.Machine.execHistPush co2 temp hum s
  | .histLen => Sys2Proof.Machine.execHistLen s
  | .histFull => Sys2Proof.Machine.execHistFull s
  | .histRead k => Sys2Proof.Machine.execHistRead k s
  | .histCap => Sys2Proof.Machine.execHistCap s
  | .schedStep => Sys2Proof.Machine.execSchedStep s
  | .schedRead => Sys2Proof.Machine.execSchedRead s
  | .readFirmwareVersion => Sys2Proof.Machine.execReadFirmwareVersion s
  | .pollReady => Sys2Proof.Machine.execPollReady s
  | .readMeasurement => Sys2Proof.Machine.execReadMeasurement s
  | .startContinuousMeasurement p c => Sys2Proof.Machine.execStartContinuousMeasurement p c s

end Sys2Proof.Machine
end

