-- ==== Sys2Proof/Machine/Fetch.lean ====
section
/-! DEFINITION. Where the next instruction's bytes stand: on the host port while Idle, in the framer's command while
it runs a transaction (10_state.md R27, 30_encoding.md R74, 41_protocol.md R122). -/

namespace Sys2Proof.Machine

/-- What a step finds to run. -/
inductive Fetched where
  /-- Idle with no frame presented, or Busy with no enabled step. -/
  | nothing
  | bytes (p : Port) (b : Bytes)
  deriving DecidableEq, Repr

/-- While Idle the host's next frame is accepted (R27, R74). While Busy the frame is held and the framer goes on with
its command (R60, R74). Log entries 11, 12 and 15. -/
def fetch (s : State) : Fetched :=
  match s.portState with
  | .idle =>
    match s.program[s.pc]? with
    | some f => .bytes .host f
    | none => .nothing
  | .busy =>
    match s.phase with
    | .none => .nothing
    | .write => .bytes .wire s.cmd
    | .pause => .bytes .wire s.cmd
    | .read => .bytes .wire s.cmd
    | .check => .bytes .wire s.cmd

/-- The host's sequence with this frame at this index. -/
def placeFrame (program : List Bytes) (pc : Nat) (f : Bytes) : List Bytes :=
  program.take pc ++ (List.replicate (pc - program.length) [] ++ (f :: program.drop (pc + 1)))

/-- The bytes stored where the next step fetches at that level: presented to an Idle port (host), or held by the
framer in its first phase (wire). Log entries 11 and 14. -/
def State.place (s : State) (p : Port) (b : Bytes) : State :=
  match p with
  | .host =>
    { s with
      resetIn := false, portState := .idle, phase := .none
      program := placeFrame s.program s.pc b }
  | .wire => { s with resetIn := false, portState := .busy, phase := .write, cmd := b }

end Sys2Proof.Machine
end

