-- ==== Sys2Proof/Machine/Step.lean ====
section
/-! DEFINITION. One step of the block. -/

namespace Sys2Proof.Machine

/-- One step: an illegal configuration never runs (R223); the reset input is taken first (R221); then the bytes that
stand next are decoded and run, or rejected (R75). With nothing to run the state stays (log entries 11 and 15). -/
def step (s : State) : Host.Outcome State Fault Refusal :=
  if s.cfg.legal then
    if s.resetIn then .next s.takeReset
    else
      match fetch s with
      | .nothing => .next s
      | .bytes p b =>
        match decode p b with
        | .ok i => exec i s
        | .error e => rejectBytes e s
  else .refused .illegalConfiguration

/-- The state with a table row's bits stored where the next step fetches. Log entry 14. -/
def State.withFetchWord (s : State) (nbits w : Nat) : State :=
  s.place (tableBytes nbits w).1 (tableBytes nbits w).2

end Sys2Proof.Machine
end

