-- ==== Sys2Proof/Safety.lean ====
section
/-! DEFINITION. The terms the statements use: the next state of an answered request, the bus accesses of a
transaction, the invariant, and the states a run can reach. -/

namespace Sys2Proof.Machine

/-! ## The states around a response and around a bus access -/

/-- `s` after a response: the event, the Idle port, nothing left in the framer, the host's index one further, and
everything else as in `s` (R24, R27, R67, R74). -/
def answeredWith (s : State) (st : Status) (fields : Bytes) : State :=
  { s with
    events := s.events ++ [.resp st fields], pc := s.pc + 1
    portState := .idle, phase := .none, cmd := [], rx := [] }

/-- `s` after one answer of the oracle was drawn and one event was recorded (R55, R67). -/
def drawn (s : State) (e : Event) : State :=
  { s with answers := s.answers.tail, draws := s.draws + 1, events := s.events ++ [e] }

/-- `s` after the command was written and the pause (R122, R127). -/
def wroteAndPaused (s : State) (cmd : Bytes) : State :=
  { s with
    answers := s.answers.tail, draws := s.draws + 1
    events := s.events ++ [.write s.cfg.devAddr cmd .ok, .pause s.cfg.tPause] }

/-- `s` after a primitive that has not returned: Busy in that phase with that command (R56). -/
def waiting (s : State) (ph : Phase) (cmd : Bytes) : State :=
  { s with
    answers := s.answers.tail, draws := s.draws + 1
    portState := .busy, phase := ph, cmd := cmd }

/-- `s` after the reset input was taken: every element of state at the value of R220, and the request in progress
ended with no response (R221). The configuration and what stands outside the block are as in `s`. -/
def abandoned (s : State) : State :=
  { s with
    updateCount := 0, mode := .full, histSlot := [], histHead := 0, histCount := 0
    portState := .idle, phase := .none, cmd := [], rx := [], resetIn := false, resetAt := none }

/-- A step from `s` to `t` that took a reset: the input was asserted before it or inside it (R221). -/
def tookReset (s t : State) : Prop := (s.resetIn = true ∨ s.resetAt ≠ none) ∧ t = abandoned t

/-- The block state a request may write (R20): the scheduler's and the history's elements. -/
def sameBlockState (s t : State) : Prop :=
  t.updateCount = s.updateCount ∧ t.mode = s.mode ∧ t.histSlot = s.histSlot ∧
    t.histHead = s.histHead ∧ t.histCount = s.histCount

/-- Instructions run one after another, stopping at the first stop. -/
def runAll : List Instr → State → Host.Outcome State Fault Refusal
  | [], s => .next s
  | i :: rest, s =>
    match exec i s with
    | .next t => runAll rest t
    | .fault r => .fault r
    | .refused r => .refused r

/-- How many responses a record holds. -/
def responses : List Event → Nat
  | [] => 0
  | .resp _ _ :: rest => responses rest + 1
  | _ :: rest => responses rest

/-! ## The invariant -/

/-- Bytes that are one of the four wire commands, checksum included (R80, R83). -/
def isWireCommand (cmd : Bytes) : Bool :=
  match decodeWire cmd with
  | .ok i => i.wellFormed
  | .error _ => false

/-- The response length of a wire command (R80, R123); 0 where there is none. -/
def responseLength (cmd : Bytes) : Nat :=
  match decodeWire cmd with
  | .ok .readFirmwareVersion => 3
  | .ok .pollReady => 3
  | .ok .readMeasurement => 18
  | _ => 0

/-- Where a record of bus accesses stands. -/
inductive BusStand where
  | free
  | written (cmd : Bytes)
  | paused (cmd : Bytes)
  deriving DecidableEq, Repr

/-- The next stand after one event, `none` where the event breaks the protocol: every access goes to `DEV_ADDR`
(R51), only the four commands are written (R83), a pause follows the write of a command that has a response (R124,
R127), and a read of the command's whole response follows the pause (R59, R122). -/
def BusStand.after (c : Config) : BusStand → Event → Option BusStand
  | _, .write a cmd .ok => if a = c.devAddr ∧ isWireCommand cmd = true then some (.written cmd) else none
  | _, .write a cmd (.err _) => if a = c.devAddr ∧ isWireCommand cmd = true then some .free else none
  | .written cmd, .pause t => if t = c.tPause ∧ 0 < responseLength cmd then some (.paused cmd) else none
  | .paused cmd, .read a n _ => if a = c.devAddr ∧ n = responseLength cmd then some .free else none
  | _, .resp _ _ => some .free
  | _, _ => none

/-- The stand after a whole record. -/
def busStand (c : Config) : BusStand → List Event → Option BusStand
  | b, [] => some b
  | b, e :: rest =>
    match b.after c e with
    | some b' => busStand c b' rest
    | none => none

/-- The ring (R22): the storage is in canonical form with slots below `HIST_CAP`, the head and the count are in
range, and every position below the count has an entry. -/
def historyOk (s : State) : Bool :=
  Memory.wf s.histSlot && (s.histSlot.all fun e => decide (e.1 < s.cfg.histCap.toNat)) &&
    decide (s.histHead.toNat < s.cfg.histCap.toNat) && decide (s.histCount.toNat ≤ s.cfg.histCap.toNat) &&
    (List.range s.histCount.toNat).all fun i => (Memory.read s.histSlot (s.slotIndex i)).isSome

/-- The stored mode belongs to the count before the increment (R21, C1), or nothing was stepped since reset. -/
def schedulerOk (s : State) : Bool :=
  decide (s.mode = select s.cfg.refreshK (s.updateCount - 1)) ||
    (decide (s.updateCount = 0) && decide (s.mode = .full))

/-- The framer: nothing in it while Idle; while Busy between steps it waits for the return of the write of a wire
command, or of the read after its write and its pause (R24, R56, R83, R122). -/
def framerOk (s : State) : Bool :=
  match s.portState, s.phase with
  | .idle, .none => decide (s.cmd = []) && decide (s.rx = [])
  | .busy, .write => isWireCommand s.cmd && decide (s.rx = [])
  | .busy, .read =>
    isWireCommand s.cmd && decide (s.rx = []) &&
      decide (busStand s.cfg .free s.events = some (.paused s.cmd))
  | _, _ => false

/-- The record of bus accesses keeps the protocol. -/
def traceOk (s : State) : Bool := (busStand s.cfg .free s.events).isSome

/-- The invariant of the block. -/
def Inv (s : State) : Bool :=
  s.cfg.legal && historyOk s && schedulerOk s && framerOk s && traceOk s

/-- Two states that differ at most in how the ring holds the same sequence (R31). -/
def sameView (s t : State) : Prop :=
  { t with histSlot := s.histSlot, histHead := s.histHead } = s ∧ t.history = s.history

/-- The states a run reaches from reset under a legal configuration, where between steps the host may present
further frames, the platform may assert the reset input or decide to assert it inside a transaction, and answers of
the oracle may become known. -/
inductive Reachable : State → Prop where
  | start (c : Config) (legal : c.legal = true) : Reachable { State.reset with cfg := c }
  | step {s t : State} (from_s : Reachable s) (stepped : Machine.step s = .next t) : Reachable t
  | present {s : State} (frames : List Bytes) (from_s : Reachable s) :
      Reachable { s with program := s.program ++ frames }
  | assertReset {s : State} (from_s : Reachable s) : Reachable { s with resetIn := true }
  | assertResetInside {s : State} (p : ResetPoint) (from_s : Reachable s) : Reachable { s with resetAt := some p }
  | answersKnown {s : State} (known : List Answer) (from_s : Reachable s) :
      Reachable { s with answers := s.answers ++ known }

end Sys2Proof.Machine
end

