-- ==== Sys2Proof/Certificates/Slice0/Obligations.lean ====
section
/-! DEFINITION. The statements for the provers. Each formalises a rule of spec/, or follows from rules, as its
docstring says. `answeredWith`, `drawn`, `wroteAndPaused` and `waiting` are full next states: everything they do not
name is as before, which is each statement's frame. -/

open Sys2Proof Sys2Proof.Machine

/-! ## A step -/

/-- While Idle, a step runs the instruction the host's next frame decodes to, and nothing else (R27, R74, R75). -/
def Obligations.StepRunsHostRequest : Prop :=
  ∀ (s : State) (f : Bytes) (i : Instr), s.cfg.legal = true → s.resetIn = false → s.portState = .idle →
    s.program[s.pc]? = some f → decode .host f = .ok i → step s = exec i s

/-- While the framer is in a phase, a step runs the wire command it holds (R60, R122).
That the framer's command runs as an instruction is the model's choice (log entry 12). -/
def Obligations.StepRunsWireCommand : Prop :=
  ∀ (s : State) (i : Instr), s.cfg.legal = true → s.resetIn = false → s.portState = .busy → s.phase ≠ .none →
    decode .wire s.cmd = .ok i → step s = exec i s

/-- The decode order of R75 with the opcode map of R76: empty frame, opcode, length of the format, and only then the
request's rule. A frame that fails a check is answered with the status and changes nothing else (R203, R204). -/
def Obligations.FrameDecodeOrder : Prop :=
  let fixedLength : List (Nat × Nat) :=
    [(0x02, 4), (0x10, 1), (0x11, 1), (0x12, 3), (0x13, 1), (0x20, 13), (0x21, 1), (0x22, 1), (0x23, 3), (0x24, 1),
      (0x30, 1), (0x31, 1)]
  ∀ (s : State) (f : Bytes), s.cfg.legal = true → s.resetIn = false → s.portState = .idle →
    s.program[s.pc]? = some f →
    (f = [] → step s = .next (answeredWith s .badLength [])) ∧
    (∀ (opc : Byte) (ops : Bytes), f = opc :: ops → opc.toNat ≠ 0x01 → (∀ e ∈ fixedLength, e.1 ≠ opc.toNat) →
      step s = .next (answeredWith s .illegalOpcode [])) ∧
    (∀ (opc : Byte) (ops : Bytes) (n : Nat), f = opc :: ops → (opc.toNat, n) ∈ fixedLength → f.length ≠ n →
      step s = .next (answeredWith s .badLength [])) ∧
    (∀ ops : Bytes, f = 0x01#8 :: ops → (f.length < 2 ∨ f.length ≠ 2 + (f.getD 1 0).toNat) →
      step s = .next (answeredWith s .badLength [])) ∧
    (∀ (opc : Byte) (ops : Bytes) (n : Nat), f = opc :: ops → (opc.toNat, n) ∈ fixedLength → f.length = n →
      ∃ i, i.port = .host ∧ encode i = f ∧ step s = exec i s) ∧
    (∀ ops : Bytes, f = 0x01#8 :: ops → 2 ≤ f.length → f.length = 2 + (f.getD 1 0).toNat →
      ∃ i, i.port = .host ∧ encode i = f ∧ step s = exec i s)

/-- The illegal opcodes of R78, exactly, whatever follows byte 0, with no other effect; and the status codes that are
ever emitted. -/
def Obligations.IllegalOpcodesExactly : Prop :=
  (∀ (opc : Byte) (ops : Bytes),
    let n := opc.toNat
    let unassigned := n = 0x00 ∨ (0x03 ≤ n ∧ n ≤ 0x0F) ∨ (0x14 ≤ n ∧ n ≤ 0x1F) ∨ (0x25 ≤ n ∧ n ≤ 0x2F) ∨ 0x32 ≤ n
    (decodeHost (opc :: ops) = .error .illegalOpcode ↔ unassigned) ∧
    ∀ s : State, s.cfg.legal = true → s.resetIn = false → s.portState = .idle →
      s.program[s.pc]? = some (opc :: ops) → unassigned → step s = .next (answeredWith s .illegalOpcode [])) ∧
  ∀ st : Status, (statusByte st).toNat ≤ 0x05

/-- A table row's bits placed where the machine fetches are run by the very next step. The layout and the
place are the model's choice (log entries 11 and 14). -/
def Obligations.PlacedTableWordRuns : Prop :=
  ∀ (s : State) (nbits w : Nat) (i : Instr), s.cfg.legal = true → decodeTableWord nbits w = some i →
    step (s.withFetchWord nbits w) = exec i (s.withFetchWord nbits w)

/-! ## Encodings -/

/-- Decoding the encoding of a well-formed instruction gives it back, for every operand (R71, R80, R85). -/
def Obligations.DecodeOfEncode : Prop :=
  ∀ i : Instr, i.wellFormed = true → decode i.port (encode i) = .ok i

/-- Bytes that decode are the encoding of what they decode to, so every byte sequence has one meaning at most and no
bit is dropped; and every host frame decodes to a well-formed request (R71, R79, R80, R83). -/
def Obligations.EncodeOfDecode : Prop :=
  ∀ (p : Port) (b : Bytes) (i : Instr), decode p b = .ok i →
    i.port = p ∧ encode i = b ∧ (p = .host → i.wellFormed = true)

/-- A few words written out from R71, R76 and R80 decode to the instructions they stand for. -/
def Obligations.SampleWordsDecode : Prop :=
  decode .host [0x01#8, 0x02#8, 0x03#8, 0x47#8] = .ok (.crc8 [0x03#8, 0x47#8]) ∧
  decode .host [0x02#8, 0xBE#8, 0xEF#8, 0x92#8] = .ok (.crcCheck 0xBE#8 0xEF#8 0x92#8) ∧
  decode .host [0x12#8, 0x03#8, 0xF5#8] = .ok (.startCont 1013#16) ∧
  decode .host [0x20#8, 0x43#8, 0xC8#8, 0x00#8, 0x01#8, 0x41#8, 0xAC#8, 0x00#8, 0x02#8, 0x42#8, 0x34#8, 0x00#8, 0x03#8] =
    .ok (.histPush 0x43C80001#32 0x41AC0002#32 0x42340003#32) ∧
  decode .host [0x23#8, 0x01#8, 0x02#8] = .ok (.histRead 258#16) ∧
  decode .host [0x31#8] = .ok .schedRead ∧
  decode .wire [0xD1#8, 0x00#8] = .ok .readFirmwareVersion ∧
  decode .wire [0x00#8, 0x10#8, 0x03#8, 0xF5#8, 0xDB#8] = .ok (.startContinuousMeasurement 1013#16 0xDB#8)

/-- `decode_f32` undoes `encode_f32` bit for bit, and both groups are valid (R153). -/
def Obligations.PayloadRoundTrip : Prop :=
  ∀ x : Word32, decodeF32 (encodeF32 x) = x ∧ groupsValid (encodeF32 x) = true ∧
    ∃ a b c d : Byte, a ++ b ++ (c ++ d) = x ∧ encodeF32 x = [a, b, crc8 [a, b], c, d, crc8 [c, d]]

/-- `decode_f32` takes bytes 0, 1, 3 and 4 of a group pair; the checksum bytes are dropped; the reading of the first
four bytes is wrong (R53, R151, R154). -/
def Obligations.DecoderDropsChecksums : Prop :=
  (∀ g0 g1 c0 g2 g3 c1 : Byte, decodeF32 [g0, g1, c0, g2, g3, c1] = be32 g0 g1 g2 g3) ∧
  encodeF32 0x43C80000#32 = [0x43#8, 0xC8#8, 0xDB#8, 0x00#8, 0x00#8, 0x81#8] ∧
  decodeF32 [0x43#8, 0xC8#8, 0xDB#8, 0x00#8, 0x00#8, 0x81#8] = 0x43C80000#32 ∧
  be32 0x43#8 0xC8#8 0xDB#8 0x00#8 = 0x43C8DB00#32

/-! ## The checksum engine -/

/-- The register of R100 is the bit-serial division by the polynomial 0x131: the message's bits, most significant
first, enter one at a time. -/
def Obligations.CrcIsBitSerial : Prop :=
  ∀ d : Bytes,
    crc8 d =
      (d.flatMap fun b => (List.range 8).map b.getMsbD).foldl
        (fun (c : Byte) (bit : Bool) => if (c.getMsbD 0) != bit then (c <<< 1) ^^^ 0x31#8 else c <<< 1) 0xFF#8

/-- The residue law (R104), and the second form of the check. -/
def Obligations.CrcResidue : Prop :=
  (∀ d : Bytes, crc8 (d ++ [crc8 d]) = 0x00#8) ∧
    ∀ hi lo c : Byte, wordValid hi lo c = true ↔ crc8 [hi, lo, c] = 0x00#8

/-- The worked trace of R106, register value by register value. -/
def Obligations.CrcWorkedTrace : Prop :=
  (List.range 9).map (fun k => Nat.repeat crcShift k (0xFF#8 ^^^ 0x03#8)) =
      [0xFC#8, 0xC9#8, 0xA3#8, 0x77#8, 0xEE#8, 0xED#8, 0xEB#8, 0xE7#8, 0xFF#8] ∧
    (List.range 9).map (fun k => Nat.repeat crcShift k (0xFF#8 ^^^ 0x47#8)) =
      [0xB8#8, 0x41#8, 0x82#8, 0x35#8, 0x6A#8, 0xD4#8, 0x99#8, 0x03#8, 0x06#8] ∧
    crc8 [0x03#8, 0x47#8] = 0x06#8

/-- CRC8 (R101): its frame, its answer for every data string it can carry, its corner cases. -/
def Obligations.Crc8Request : Prop :=
  (∀ (s : State) (d : Bytes), s.cfg.legal = true → s.portState = .idle →
    exec (.crc8 d) s = .next (answeredWith s .ok [crc8 d])) ∧
  (∀ (count : Byte) (d : Bytes),
    (d.length = count.toNat → decodeHost (0x01#8 :: count :: d) = .ok (.crc8 d)) ∧
    (d.length ≠ count.toNat → decodeHost (0x01#8 :: count :: d) = .error .badLength)) ∧
  (∀ d : Bytes, (Instr.crc8 d).wellFormed = true ↔ d.length ≤ 255) ∧
  crc8 [] = 0xFF#8 ∧ crc8 [0xFF#8] = 0x00#8 ∧ crc8 [0x03#8, 0x47#8] = 0x06#8

/-- CRC_CHECK (R103) and the validator (R102): a result, never a status; one checksum byte is valid for a word, and
every single-bit change of a data word is detected. -/
def Obligations.CrcCheckRequest : Prop :=
  (∀ b0 b1 c : Byte, decodeHost [0x02#8, b0, b1, c] = .ok (.crcCheck b0 b1 c) ∧
    (wordValid b0 b1 c = true ↔ crc8 [b0, b1] = c)) ∧
  (∀ (s : State) (b0 b1 c : Byte), s.cfg.legal = true → s.portState = .idle →
    exec (.crcCheck b0 b1 c) s = .next (answeredWith s .ok [if crc8 [b0, b1] = c then 0x01#8 else 0x00#8])) ∧
  (∀ b0 b1 : Byte, ∃ c, wordValid b0 b1 c = true ∧ ∀ c', wordValid b0 b1 c' = true → c' = c) ∧
  (∀ c : Byte, wordValid 0x00#8 0x00#8 c = true ↔ c = 0x81#8) ∧
  (∀ (w : Word16) (k : Nat), k < 16 →
    crc8 (bytes16 (w ^^^ (1#16 <<< k))) ≠ crc8 (bytes16 w)) ∧
  wordValid 0xBE#8 0xEF#8 0x92#8 = true ∧ wordValid 0x03#8 0x47#8 0x07#8 = false

/-! ## The protocol framer -/

/-- FW_VERSION (R130): a failed write, a failed read, a wrong checksum, and the two version bytes, where no
reset falls inside (for those see ResetInsideTransaction). -/
def Obligations.FwVersionRequest : Prop :=
  decodeHost [0x10#8] = .ok .fwVersion ∧
  ∀ s : State, s.cfg.legal = true → s.portState = .idle →
    let a := s.cfg.devAddr
    let cmd : Bytes := [0xD1#8, 0x00#8]
    let s1 := wroteAndPaused s cmd
    (∀ c, s.resetAt ≠ some .afterWrite → s.answerTo (.write a cmd) = .err c →
      exec .fwVersion s = .next (answeredWith (drawn s (.write a cmd (.err c))) .transportFailure c)) ∧
    (∀ x c, s.resetAt = none → s.answerTo (.write a cmd) = .ok x → s1.answerTo (.read a 3) = .err c →
      exec .fwVersion s = .next (answeredWith (drawn s1 (.read a 3 (.err c))) .transportFailure c)) ∧
    (∀ x b b0 b1 c, s.resetAt = none → s.answerTo (.write a cmd) = .ok x →
      s1.answerTo (.read a 3) = .ok b → exactly 3 b = [b0, b1, c] → crc8 [b0, b1] ≠ c →
      exec .fwVersion s = .next (answeredWith (drawn s1 (.read a 3 (.ok [b0, b1, c]))) .checksumMismatch [])) ∧
    (∀ x b b0 b1 c, s.resetAt = none → s.answerTo (.write a cmd) = .ok x →
      s1.answerTo (.read a 3) = .ok b → exactly 3 b = [b0, b1, c] → crc8 [b0, b1] = c →
      exec .fwVersion s = .next (answeredWith (drawn s1 (.read a 3 (.ok [b0, b1, c]))) .ok [b0, b1]))

/-- MEAS_READY (R135, R136): ready exactly when the big-endian word is 1; any other word is not ready, with OK.
No reset falls inside (for those see ResetInsideTransaction). -/
def Obligations.MeasReadyRequest : Prop :=
  decodeHost [0x11#8] = .ok .measReady ∧
  ∀ s : State, s.cfg.legal = true → s.portState = .idle →
    let a := s.cfg.devAddr
    let cmd : Bytes := [0x02#8, 0x02#8]
    let s1 := wroteAndPaused s cmd
    (∀ c, s.resetAt ≠ some .afterWrite → s.answerTo (.write a cmd) = .err c →
      exec .measReady s = .next (answeredWith (drawn s (.write a cmd (.err c))) .transportFailure c)) ∧
    (∀ x c, s.resetAt = none → s.answerTo (.write a cmd) = .ok x → s1.answerTo (.read a 3) = .err c →
      exec .measReady s = .next (answeredWith (drawn s1 (.read a 3 (.err c))) .transportFailure c)) ∧
    (∀ x b b0 b1 c, s.resetAt = none → s.answerTo (.write a cmd) = .ok x →
      s1.answerTo (.read a 3) = .ok b → exactly 3 b = [b0, b1, c] → crc8 [b0, b1] ≠ c →
      exec .measReady s = .next (answeredWith (drawn s1 (.read a 3 (.ok [b0, b1, c]))) .checksumMismatch [])) ∧
    (∀ x b b0 b1 c, s.resetAt = none → s.answerTo (.write a cmd) = .ok x →
      s1.answerTo (.read a 3) = .ok b → exactly 3 b = [b0, b1, c] → crc8 [b0, b1] = c →
      exec .measReady s = .next (answeredWith (drawn s1 (.read a 3 (.ok [b0, b1, c]))) .ok
        [if b0.toNat * 256 + b1.toNat = 1 then 0x01#8 else 0x00#8]))

/-- START_CONT (R124, R140): one write of five bytes with the checksum of the pressure, for every pressure; no pause,
no read. No reset falls inside (for that see ResetInsideWriteOnly). -/
def Obligations.StartContRequest : Prop :=
  (∀ hi lo : Byte, decodeHost [0x12#8, hi, lo] = .ok (.startCont (hi ++ lo))) ∧
  (∀ (s : State) (hi lo : Byte), s.cfg.legal = true → s.portState = .idle →
    s.resetAt ≠ some .afterWrite →
    let a := s.cfg.devAddr
    let cmd : Bytes := [0x00#8, 0x10#8, hi, lo, crc8 [hi, lo]]
    (∀ c, s.answerTo (.write a cmd) = .err c →
      exec (.startCont (hi ++ lo)) s = .next (answeredWith (drawn s (.write a cmd (.err c))) .transportFailure c)) ∧
    (∀ x, s.answerTo (.write a cmd) = .ok x →
      exec (.startCont (hi ++ lo)) s = .next (answeredWith (drawn s (.write a cmd .ok)) .ok []))) ∧
  crc8 [0x00#8, 0x00#8] = 0x81#8 ∧ crc8 [0x03#8, 0xF5#8] = 0xDB#8

/-- GET_MEAS (R128, R150, R152): one invalid group of six fails the request and answers no word; else the twelve data
bytes are answered in wire order, every pattern unchanged. No reset falls inside (for those see
ResetInsideTransaction). -/
def Obligations.GetMeasRequest : Prop :=
  decodeHost [0x13#8] = .ok .getMeas ∧
  ∀ s : State, s.cfg.legal = true → s.portState = .idle →
    let a := s.cfg.devAddr
    let cmd : Bytes := [0x03#8, 0x00#8]
    let s1 := wroteAndPaused s cmd
    let valid (g : Bytes) (k : Nat) : Prop := crc8 [g.getD (3 * k) 0, g.getD (3 * k + 1) 0] = g.getD (3 * k + 2) 0
    (∀ c, s.resetAt ≠ some .afterWrite → s.answerTo (.write a cmd) = .err c →
      exec .getMeas s = .next (answeredWith (drawn s (.write a cmd (.err c))) .transportFailure c)) ∧
    (∀ x c, s.resetAt = none → s.answerTo (.write a cmd) = .ok x → s1.answerTo (.read a 18) = .err c →
      exec .getMeas s = .next (answeredWith (drawn s1 (.read a 18 (.err c))) .transportFailure c)) ∧
    (∀ x b, s.resetAt = none → s.answerTo (.write a cmd) = .ok x → s1.answerTo (.read a 18) = .ok b →
      (∃ k < 6, ¬valid (exactly 18 b) k) →
      exec .getMeas s =
        .next (answeredWith (drawn s1 (.read a 18 (.ok (exactly 18 b)))) .checksumMismatch [])) ∧
    (∀ x b, s.resetAt = none → s.answerTo (.write a cmd) = .ok x → s1.answerTo (.read a 18) = .ok b →
      (∀ k < 6, valid (exactly 18 b) k) →
      exec .getMeas s =
        .next (answeredWith (drawn s1 (.read a 18 (.ok (exactly 18 b)))) .ok
          ([0, 1, 3, 4, 6, 7, 9, 10, 12, 13, 15, 16].map fun j => (exactly 18 b).getD j 0)))

/-- read-firmware-version (R80, R122): the framer's transaction from its first phase, and from phase READ, where no
reset falls inside.
What it does as an instruction of its own is the model's choice (log entry 12). -/
def Obligations.ReadFirmwareVersionCommand : Prop :=
  ∀ (s : State) (b : Bytes) (b0 b1 c : Byte), s.cfg.legal = true → exactly 3 b = [b0, b1, c] → crc8 [b0, b1] = c →
    let a := s.cfg.devAddr
    let cmd : Bytes := [0xD1#8, 0x00#8]
    let s1 := wroteAndPaused s cmd
    (∀ x, s.resetAt = none → s.phase = .none ∨ s.phase = .write → s.answerTo (.write a cmd) = .ok x →
      s1.answerTo (.read a 3) = .ok b →
      exec .readFirmwareVersion s = .next (answeredWith (drawn s1 (.read a 3 (.ok [b0, b1, c]))) .ok [b0, b1])) ∧
    (s.resetAt ≠ some .afterRead → s.phase = .read → s.answerTo (.read a 3) = .ok b →
      exec .readFirmwareVersion s = .next (answeredWith (drawn s (.read a 3 (.ok [b0, b1, c]))) .ok [b0, b1]))

/-- poll-ready (R80, R122, R136): the framer's transaction from its first phase, and from phase READ, where no
reset falls inside.
What it does as an instruction of its own is the model's choice (log entry 12). -/
def Obligations.PollReadyCommand : Prop :=
  ∀ (s : State) (b : Bytes) (b0 b1 c : Byte), s.cfg.legal = true → exactly 3 b = [b0, b1, c] → crc8 [b0, b1] = c →
    let a := s.cfg.devAddr
    let cmd : Bytes := [0x02#8, 0x02#8]
    let s1 := wroteAndPaused s cmd
    let ready : Byte := if b0.toNat * 256 + b1.toNat = 1 then 0x01#8 else 0x00#8
    (∀ x, s.resetAt = none → s.phase = .none ∨ s.phase = .write → s.answerTo (.write a cmd) = .ok x →
      s1.answerTo (.read a 3) = .ok b →
      exec .pollReady s = .next (answeredWith (drawn s1 (.read a 3 (.ok [b0, b1, c]))) .ok [ready])) ∧
    (s.resetAt ≠ some .afterRead → s.phase = .read → s.answerTo (.read a 3) = .ok b →
      exec .pollReady s = .next (answeredWith (drawn s (.read a 3 (.ok [b0, b1, c]))) .ok [ready]))

/-- read-measurement (R80, R122, R150): the framer's transaction from its first phase, and from phase READ, for every
measurement the sensor encodes, where no reset falls inside.
What it does as an instruction of its own is the model's choice (log entry 12). -/
def Obligations.ReadMeasurementCommand : Prop :=
  ∀ (s : State) (b : Bytes) (m : Measurement), s.cfg.legal = true →
    exactly 18 b = encodeF32 m.co2 ++ (encodeF32 m.temp ++ encodeF32 m.hum) →
    let a := s.cfg.devAddr
    let cmd : Bytes := [0x03#8, 0x00#8]
    let s1 := wroteAndPaused s cmd
    (∀ x, s.resetAt = none → s.phase = .none ∨ s.phase = .write → s.answerTo (.write a cmd) = .ok x →
      s1.answerTo (.read a 18) = .ok b →
      exec .readMeasurement s =
        .next (answeredWith (drawn s1 (.read a 18 (.ok (exactly 18 b)))) .ok (bytesOfMeasurement m))) ∧
    (s.resetAt ≠ some .afterRead → s.phase = .read → s.answerTo (.read a 18) = .ok b →
      exec .readMeasurement s =
        .next (answeredWith (drawn s (.read a 18 (.ok (exactly 18 b)))) .ok (bytesOfMeasurement m)))

/-- start-continuous-measurement (R80, R81, R124): its five bytes are written as they stand and nothing is read,
where no reset falls inside.
That an ill-formed checksum byte is sent as it stands is the model's choice (log entries 12 and 13). -/
def Obligations.StartContinuousMeasurementCommand : Prop :=
  ∀ (s : State) (hi lo c : Byte), s.cfg.legal = true → s.resetAt ≠ some .afterWrite →
    let a := s.cfg.devAddr
    let cmd : Bytes := [0x00#8, 0x10#8, hi, lo, c]
    (∀ x, s.answerTo (.write a cmd) = .ok x →
      exec (.startContinuousMeasurement (hi ++ lo) c) s = .next (answeredWith (drawn s (.write a cmd .ok)) .ok [])) ∧
    (∀ e, s.answerTo (.write a cmd) = .err e →
      exec (.startContinuousMeasurement (hi ++ lo) c) s =
        .next (answeredWith (drawn s (.write a cmd (.err e))) .transportFailure e))

/-- The three wire commands with a response fail as R122 says, from phase WRITE and from phase READ: the cause of the
failed primitive unchanged, or one CHECKSUM_MISMATCH without any data. No reset falls inside. What they
do as instructions of their own is the model's choice (log entry 12). -/
def Obligations.WireCommandFailures : Prop :=
  ∀ (s : State) (i : Instr) (cmd : Bytes) (n : Nat), s.cfg.legal = true →
    (i, cmd, n) ∈ ([(.readFirmwareVersion, [0xD1#8, 0x00#8], 3), (.pollReady, [0x02#8, 0x02#8], 3),
      (.readMeasurement, [0x03#8, 0x00#8], 18)] : List (Instr × Bytes × Nat)) →
    let a := s.cfg.devAddr
    let bad (b : Bytes) : Prop := ∃ k < n / 3,
      crc8 [(exactly n b).getD (3 * k) 0, (exactly n b).getD (3 * k + 1) 0] ≠ (exactly n b).getD (3 * k + 2) 0
    (∀ c, s.resetAt ≠ some .afterWrite → s.phase = .write → s.answerTo (.write a cmd) = .err c →
      exec i s = .next (answeredWith (drawn s (.write a cmd (.err c))) .transportFailure c)) ∧
    (∀ c, s.resetAt ≠ some .afterRead → s.phase = .read → s.answerTo (.read a n) = .err c →
      exec i s = .next (answeredWith (drawn s (.read a n (.err c))) .transportFailure c)) ∧
    (∀ b, s.resetAt ≠ some .afterRead → s.phase = .read → s.answerTo (.read a n) = .ok b → bad b →
      exec i s = .next (answeredWith (drawn s (.read a n (.ok (exactly n b)))) .checksumMismatch []))

/-- A primitive that has not returned leaves its request Busy in its phase, with no response and no event of that
primitive (R56). The answer `pending` is the model's way to say so (log entry 6). -/
def Obligations.PendingPrimitiveWaits : Prop :=
  (∀ (s : State) (i : Instr) (cmd : Bytes), s.cfg.legal = true → s.portState = .idle →
    ((i, cmd) ∈ ([(.fwVersion, [0xD1#8, 0x00#8]), (.measReady, [0x02#8, 0x02#8]), (.getMeas, [0x03#8, 0x00#8])] :
        List (Instr × Bytes)) ∨
      ∃ p, i = .startCont p ∧ cmd = 0x00#8 :: 0x10#8 :: (bytes16 p ++ [crc8 (bytes16 p)])) →
    s.answerTo (.write s.cfg.devAddr cmd) = .pending → exec i s = .next (waiting s .write cmd)) ∧
  ∀ (s : State) (i : Instr) (cmd : Bytes) (n : Nat) (x : Bytes), s.cfg.legal = true → s.portState = .idle →
    s.resetAt = none ∨ s.resetAt = some .afterRead →
    (i, cmd, n) ∈ ([(.fwVersion, [0xD1#8, 0x00#8], 3), (.measReady, [0x02#8, 0x02#8], 3),
      (.getMeas, [0x03#8, 0x00#8], 18)] : List (Instr × Bytes × Nat)) →
    s.answerTo (.write s.cfg.devAddr cmd) = .ok x →
    (wroteAndPaused s cmd).answerTo (.read s.cfg.devAddr n) = .pending →
    exec i s = .next (waiting (wroteAndPaused s cmd) .read cmd)

/-- While the primitive does not return, the request never ends and the port stays Busy, whatever the host presents,
for any number of steps (R56). The answer `pending` is the model's way to say so (log entry 6). -/
def Obligations.StuckWhilePending : Prop :=
  ∀ (k : Nat) (s : State) (i : Instr), s.cfg.legal = true → s.resetIn = false → s.portState = .busy →
    s.phase = .write ∨ s.phase = .read → decode .wire s.cmd = .ok i → s.answers = List.replicate k .pending →
    ∃ t, Host.Core.run Sys2Proof.core k s = .next t ∧ t.portState = .busy ∧ t.events = s.events ∧ t.pc = s.pc ∧
      t.cmd = s.cmd ∧ sameBlockState s t

/-- A host request presented while Busy is held: nothing happens to it or to the request in progress (R74); what the
held request does later is what it does then. That the meaning itself holds is the model's reading (log entry 22). -/
def Obligations.BusyPortHoldsRequests : Prop :=
  ∀ (s : State) (i : Instr), s.cfg.legal = true → s.portState = .busy → i.port = .host → exec i s = .next s

/-- While Busy, a step does not look at what the host presents (R60, R74): two runs that differ in the host's frames
alone go the same way. -/
def Obligations.BusyStepIgnoresHostFrames : Prop :=
  ∀ (s t : State) (frames : List Bytes), s.portState = .busy → step s = .next t → s.resetIn = false →
    step { s with program := frames } = .next { t with program := frames }

/-! ## The history -/

/-- HIST_PUSH (R160): into the slot after the newest entry while there is room, else into the oldest entry's slot,
whose successor becomes the oldest. One slot is written, every other slot reads as before. -/
def Obligations.HistPushRequest : Prop :=
  (∀ a0 a1 a2 a3 b0 b1 b2 b3 c0 c1 c2 c3 : Byte,
    decodeHost [0x20#8, a0, a1, a2, a3, b0, b1, b2, b3, c0, c1, c2, c3] =
      .ok (.histPush (be32 a0 a1 a2 a3) (be32 b0 b1 b2 b3) (be32 c0 c1 c2 c3))) ∧
  ∀ (s : State) (co2 temp hum : Word32), s.cfg.legal = true → s.portState = .idle →
    let n := s.cfg.histCap.toNat
    let stored (slots : Memory) (j : Nat) : Prop :=
      ∀ k, Memory.read slots k = if k = j then some ⟨co2, temp, hum⟩ else Memory.read s.histSlot k
    (s.histCount.toNat < n →
      ∃ slots, stored slots ((s.histHead.toNat + s.histCount.toNat) % n) ∧
        exec (.histPush co2 temp hum) s =
          .next (answeredWith { s with histSlot := slots, histCount := s.histCount + 1 } .ok [])) ∧
    (n ≤ s.histCount.toNat →
      ∃ slots, stored slots s.histHead.toNat ∧
        exec (.histPush co2 temp hum) s =
          .next (answeredWith
            { s with histSlot := slots, histHead := BitVec.ofNat 16 ((s.histHead.toNat + 1) % n) } .ok []))

/-- A push as a function on the sequence (R161): append while there is room, else drop exactly the oldest; the length
stays within the capacity. -/
def Obligations.HistPushSequence : Prop :=
  ∀ (s : State) (co2 temp hum : Word32), s.cfg.legal = true → s.portState = .idle → historyOk s = true →
    ∃ t, exec (.histPush co2 temp hum) s = .next t ∧ historyOk t = true ∧
      t.history =
        (if s.history.length < s.cfg.histCap.toNat then s.history ++ [⟨co2, temp, hum⟩]
          else s.history.tail ++ [⟨co2, temp, hum⟩]) ∧
      s.history.length ≤ s.cfg.histCap.toNat ∧ t.history.length ≤ s.cfg.histCap.toNat

/-- From reset, pushing any measurements leaves exactly the last `HIST_CAP` of them, oldest first, and HIST_FULL
answers true exactly from the `HIST_CAP`-th push on (R171). -/
def Obligations.HistPushesFromReset : Prop :=
  ∀ (c : Config) (ms : List Measurement), c.legal = true →
    let n := c.histCap.toNat
    ∃ t, runAll (ms.map fun m => .histPush m.co2 m.temp m.hum) { State.reset with cfg := c } = .next t ∧
      t.histCount.toNat = min ms.length n ∧
      t.history = ms.drop (ms.length - min ms.length n) ∧
      exec .histFull t = .next (answeredWith t .ok [if n ≤ ms.length then 0x01#8 else 0x00#8])

/-- HIST_READ (R166, R205): INDEX_RANGE at and past the count, with no data; else the whole entry of the ring's slot
for that position, which under the invariant of the ring is never one past the capacity and always one that holds an
entry. Nothing is written. -/
def Obligations.HistReadRequest : Prop :=
  (∀ hi lo : Byte, decodeHost [0x23#8, hi, lo] = .ok (.histRead (hi ++ lo))) ∧
  ∀ (s : State) (i : Word16), s.cfg.legal = true → s.portState = .idle →
    let m := s.readSlot ((s.histHead.toNat + i.toNat) % s.cfg.histCap.toNat)
    (s.histCount.toNat ≤ i.toNat → exec (.histRead i) s = .next (answeredWith s .indexRange [])) ∧
    (i.toNat < s.histCount.toNat →
      exec (.histRead i) s = .next (answeredWith s .ok (bytes32 m.co2 ++ bytes32 m.temp ++ bytes32 m.hum))) ∧
    (historyOk s = true → s.cfg.histCap.toNat ≤ i.toNat →
      exec (.histRead i) s = .next (answeredWith s .indexRange [])) ∧
    (historyOk s = true → i.toNat < s.histCount.toNat →
      Memory.read s.histSlot ((s.histHead.toNat + i.toNat) % s.cfg.histCap.toNat) = some m)

/-- Reading positions 0, 1, … one after another answers the sequence of the history, oldest first, and leaves it as it
was, so that it can be read again (R166, R167). -/
def Obligations.HistIterationReadsSequence : Prop :=
  ∀ s : State, s.cfg.legal = true → s.portState = .idle → historyOk s = true →
    ∃ t, runAll ((List.range s.histCount.toNat).map fun k => .histRead (BitVec.ofNat 16 k)) s = .next t ∧
      t.events = s.events ++ s.history.map (fun m => .resp .ok (bytesOfMeasurement m)) ∧
      t.history = s.history ∧ sameBlockState s t ∧ t.portState = .idle

/-- HIST_LEN (R163): the count, big-endian; 0 after reset, the capacity once full, never more. -/
def Obligations.HistLenRequest : Prop :=
  decodeHost [0x21#8] = .ok .histLen ∧
  (∀ s : State, s.cfg.legal = true → s.portState = .idle →
    exec .histLen s =
      .next (answeredWith s .ok [s.histCount.extractLsb' 8 8, s.histCount.extractLsb' 0 8])) ∧
  State.reset.histCount = 0 ∧
  ∀ s : State, historyOk s = true → s.histCount.toNat ≤ s.cfg.histCap.toNat ∧
    (s.isFull = true → s.histCount = s.cfg.histCap)

/-- HIST_FULL (R164): whether the count equals the capacity. -/
def Obligations.HistFullRequest : Prop :=
  decodeHost [0x22#8] = .ok .histFull ∧
  ∀ s : State, s.cfg.legal = true → s.portState = .idle →
    (s.histCount = s.cfg.histCap → exec .histFull s = .next (answeredWith s .ok [0x01#8])) ∧
    (s.histCount ≠ s.cfg.histCap → exec .histFull s = .next (answeredWith s .ok [0x00#8]))

/-- HIST_CAP (R170): the capacity, big-endian, between 1 and 65535, the same constant for the life of the block. -/
def Obligations.HistCapRequest : Prop :=
  decodeHost [0x24#8] = .ok .histCap ∧
  ∀ s : State, s.cfg.legal = true →
    (s.portState = .idle →
      exec .histCap s =
        .next (answeredWith s .ok [s.cfg.histCap.extractLsb' 8 8, s.cfg.histCap.extractLsb' 0 8])) ∧
    1 ≤ s.cfg.histCap.toNat ∧ s.cfg.histCap.toNat ≤ 65535 ∧
    ∀ t : State, step s = .next t → t.cfg.histCap = s.cfg.histCap

/-- A step changes the history only by a HIST_PUSH frame on an Idle port, or by taking a reset (R168, R29). -/
def Obligations.HistoryChangesOnlyByPush : Prop :=
  ∀ s t : State, step s = .next t →
    (t.histSlot = s.histSlot ∧ t.histHead = s.histHead ∧ t.histCount = s.histCount) ∨
      tookReset s t ∨ (s.portState = .idle ∧ ∃ ops : Bytes, ops.length = 12 ∧ s.program[s.pc]? = some (0x20#8 :: ops))

/-- How the ring holds the sequence cannot be told from outside (R31): from two states that differ in that alone, a
step answers next states that differ in that alone, so with the same responses. -/
def Obligations.RingPlacementHidden : Prop :=
  ∀ s t s' : State, historyOk s = true → historyOk t = true → sameView s t → step s = .next s' →
    ∃ t', step t = .next t' ∧ sameView s' t' ∧ historyOk s' = true ∧ historyOk t' = true

/-! ## The scheduler -/

/-- SCHED_STEP (R180, R181): the mode of the count before the increment is stored and answered, and shows on
`refresh_mode`; the counter wraps. With K = 1 it is always Full, and at count 0 too. -/
def Obligations.SchedStepRequest : Prop :=
  decodeHost [0x30#8] = .ok .schedStep ∧
  (∀ s : State, s.cfg.legal = true → s.portState = .idle →
    (s.updateCount.toNat % s.cfg.refreshK.toNat = 0 →
      exec .schedStep s =
        .next (answeredWith { s with mode := .full, updateCount := s.updateCount + 1 } .ok [0x00#8])) ∧
    (s.updateCount.toNat % s.cfg.refreshK.toNat ≠ 0 →
      exec .schedStep s =
        .next (answeredWith { s with mode := .quick, updateCount := s.updateCount + 1 } .ok [0x01#8]))) ∧
  (∀ c : Word32, select 1 c = .full) ∧ (∀ k : Word32, select k 0 = .full) ∧
  (∀ c : Word32, (c + 1).toNat = (c.toNat + 1) % 2 ^ 32) ∧ ∀ s : State, s.refreshMode = s.mode

/-- SCHED_READ (R184): count and stored mode, nothing changed. -/
def Obligations.SchedReadRequest : Prop :=
  decodeHost [0x31#8] = .ok .schedRead ∧
  ∀ s : State, s.cfg.legal = true → s.portState = .idle →
    exec .schedRead s =
      .next (answeredWith s .ok
        [s.updateCount.extractLsb' 24 8, s.updateCount.extractLsb' 16 8, s.updateCount.extractLsb' 8 8,
          s.updateCount.extractLsb' 0 8, if s.mode = .full then 0x00#8 else 0x01#8])

/-- From reset, the j-th SCHED_STEP answers `select(j mod 2^32)` (R185), for every j and every legal modulus. -/
def Obligations.SchedulerCadenceFromReset : Prop :=
  ∀ (c : Config) (j : Nat), c.legal = true →
    ∃ t u, runAll (List.replicate j .schedStep) { State.reset with cfg := c } = .next t ∧
      exec .schedStep t = .next u ∧ t.updateCount.toNat = j % 2 ^ 32 ∧
      u.events = t.events ++
        [.resp .ok [if j % 2 ^ 32 % c.refreshK.toNat = 0 then 0x00#8 else 0x01#8]]

/-- The counter moves by exactly one per SCHED_STEP and at no other time except by a reset; across the wrap with K = 10 the
cadence is irregular, as R182 says. -/
def Obligations.CounterMovesOnlyBySchedStep : Prop :=
  (∀ s t : State, s.resetIn = false → step s = .next t →
    (s.portState = .idle ∧ s.program[s.pc]? = some [0x30#8] → t.updateCount = s.updateCount + 1) ∧
    (¬(s.portState = .idle ∧ s.program[s.pc]? = some [0x30#8]) →
      t.updateCount = s.updateCount ∧ t.mode = s.mode ∨ tookReset s t)) ∧
  ([4294967290#32, 4294967291#32, 4294967292#32, 4294967293#32, 4294967294#32, 4294967295#32, 0#32].map
      fun c => select 10#32 c) =
    [.full, .quick, .quick, .quick, .quick, .quick, .full] ∧ (4294967295#32 + 1 : Word32) = 0

/-- The stored mode is `select` of the count before the increment, or nothing was stepped since reset: every step
keeps this (R21, C1). -/
def Obligations.StoredModeOfPreviousCount : Prop :=
  schedulerOk State.reset = true ∧
    ∀ s t : State, schedulerOk s = true → step s = .next t → schedulerOk t = true

/-! ## The whole machine -/

/-- The reset values of R220, at power-on and when the reset input is taken, which keeps the configuration. -/
def Obligations.ResetValues : Prop :=
  (∀ t : State, t = State.reset ∨ (∃ s : State, s.cfg.legal = true ∧ s.resetIn = true ∧ step s = .next t) →
    t.updateCount = 0 ∧ t.mode = .full ∧ t.histCount = 0 ∧ t.histHead = 0 ∧ t.portState = .idle ∧ t.phase = .none) ∧
  ∀ s : State, s.cfg.legal = true → s.resetIn = true →
    ∃ t, step s = .next t ∧ t.cfg = s.cfg

/-- Taking the reset input ends a request in progress with no response, and the block is Idle with an empty history
(R221, R222). That no event is recorded, that the input is lowered, and that the host's sequence and index stay is the
model's choice (log entry 10). -/
def Obligations.ResetAbandonsRequest : Prop :=
  ∀ s : State, s.cfg.legal = true → s.resetIn = true →
    ∃ t, step s = .next t ∧ t.events = s.events ∧ t.portState = .idle ∧ t.phase = .none ∧ t.cmd = [] ∧ t.rx = [] ∧
      t.history = [] ∧ t.resetIn = false ∧ t.program = s.program ∧ t.pc = s.pc

/-- No step changes the configuration (R6, R9). -/
def Obligations.ConfigurationNeverChanges : Prop :=
  ∀ s t : State, step s = .next t → t.cfg = s.cfg

/-- The bounds of R6 are what `legal` checks, and a configuration that breaks them is refused and never run, by a step
and by every instruction (R223). -/
def Obligations.IllegalConfigurationRefused : Prop :=
  ∀ s : State,
    (s.cfg.legal = true ↔
      1 ≤ s.cfg.histCap.toNat ∧ 1 ≤ s.cfg.refreshK.toNat ∧ 0 < s.cfg.tPause ∧ s.cfg.devAddr.toNat ≤ 0x7F) ∧
    (s.cfg.legal = false →
      step s = .refused .illegalConfiguration ∧ ∀ i : Instr, exec i s = .refused .illegalConfiguration) ∧
    (s.cfg.legal = true → ∀ (i : Instr) (r : Refusal), exec i s ≠ .refused r)

/-- A step whose response is not OK has written no block state, and the next request can be accepted at once (R200,
R207). -/
def Obligations.ErrorsArePrecise : Prop :=
  ∀ (s t : State) (added : List Event) (st : Status) (fields : Bytes), s.resetIn = false → step s = .next t →
    t.events = s.events ++ added → .resp st fields ∈ added → st ≠ .ok →
    sameBlockState s t ∧ t.portState = .idle ∧ t.phase = .none ∧ (st ≠ .transportFailure → fields = [])

/-- A step adds to the record and takes nothing back; it emits at most one response; and the host's index advances by
one exactly when it emits one (R27, R67, R70). -/
def Obligations.OneResponsePerRequest : Prop :=
  ∀ s t : State, step s = .next t →
    ∃ added, t.events = s.events ++ added ∧ responses added ≤ 1 ∧ t.pc = s.pc + responses added ∧
      t.program = s.program

/-- The protocol requests and the wire commands write neither the history nor the scheduler, whatever their outcome
(R129), unless a reset is taken inside them (R221). -/
def Obligations.ProtocolWritesNoBlockState : Prop :=
  ∀ (s t : State) (i : Instr),
    (i ∈ ([.fwVersion, .measReady, .getMeas, .readFirmwareVersion, .pollReady, .readMeasurement] : List Instr) ∨
      (∃ p, i = .startCont p) ∨ ∃ p c, i = .startContinuousMeasurement p c) →
    exec i s = .next t → sameBlockState s t ∨ tookReset s t

/-- The requests of the other units issue no bus access and ask nothing of the oracle; they end at once with one
response (R121). -/
def Obligations.OtherUnitsUseNoBus : Prop :=
  ∀ (s : State) (i : Instr), s.cfg.legal = true → s.portState = .idle → i.port = .host →
    i ∉ ([.fwVersion, .measReady, .getMeas] : List Instr) → (∀ p, i ≠ .startCont p) →
    ∃ t st fields, exec i s = .next t ∧ t.events = s.events ++ [.resp st fields] ∧ t.answers = s.answers ∧
      t.draws = s.draws ∧ t.portState = .idle ∧ t.pc = s.pc + 1

/-- The invariant holds right after reset, under every legal configuration. That the framer's bytes are
empty there is the model's choice (log entry 12). -/
def Obligations.ResetHasInvariant : Prop :=
  Inv State.reset = true ∧ ∀ c : Config, c.legal = true → Inv { State.reset with cfg := c } = true

/-- Every step from a state of the invariant answers a next state, and that state has the invariant: the ring stays
well formed, the stored mode belongs to the count before, the framer holds only wire commands, and the record of bus
accesses keeps the protocol. -/
def Obligations.StepKeepsInvariant : Prop :=
  ∀ s : State, Inv s = true → ∃ t, step s = .next t ∧ Inv t = true

/-- No run stops: from every reachable state, whatever the host presents, the oracle answers or the platform resets,
a step answers a next state (R207). How frames and the reset input come is the
model's choice (log entries 10 and 11). -/
def Obligations.ReachableNeverStops : Prop :=
  ∀ s : State, Reachable s → Inv s = true ∧ ∃ t, step s = .next t ∧ Reachable t

/-- In every reachable record, every access goes to `DEV_ADDR`, every write is one of the four wire commands with its
checksum right, and every read asks for 3 or 18 bytes (R51, R59, R83). -/
def Obligations.BusCarriesOnlyWireCommands : Prop :=
  ∀ s : State, Reachable s →
    (∀ a cmd o, .write a cmd o ∈ s.events → a = s.cfg.devAddr ∧
      (cmd = [0xD1#8, 0x00#8] ∨ cmd = [0x02#8, 0x02#8] ∨ cmd = [0x03#8, 0x00#8] ∨
        ∃ hi lo, cmd = [0x00#8, 0x10#8, hi, lo, crc8 [hi, lo]])) ∧
    ∀ a n o, .read a n o ∈ s.events → a = s.cfg.devAddr ∧ (n = 3 ∨ n = 18)

/-- In every reachable record, every read stands right after a pause of at least `T_PAUSE`, which stands right after
the successful write of the command that the read answers (R122, R127). -/
def Obligations.ReadsFollowWriteAndPause : Prop :=
  ∀ (s : State) (before after : List Event) (a : BitVec 7) (n : Nat) (o : ReadOutcome), Reachable s →
    s.events = before ++ .read a n o :: after →
    ∃ earlier cmd, before = earlier ++ [.write s.cfg.devAddr cmd .ok, .pause s.cfg.tPause] ∧
      n = responseLength cmd

/-- A reset asserted inside a transaction that has a response (R221): after its write, after its pause or after its
read, whatever the primitives answered, the request ends with no response in the state of R220, and what it did on the
bus stays in the record. The instants are the model's choice (log entry 10). -/
def Obligations.ResetInsideTransaction : Prop :=
  ∀ (s : State) (i : Instr) (cmd : Bytes) (n : Nat), s.cfg.legal = true →
    let a := s.cfg.devAddr
    let s1 := wroteAndPaused s cmd
    let requests : List (Instr × Bytes × Nat) :=
      [(.fwVersion, [0xD1#8, 0x00#8], 3), (.measReady, [0x02#8, 0x02#8], 3), (.getMeas, [0x03#8, 0x00#8], 18)]
    let commands : List (Instr × Bytes × Nat) :=
      [(.readFirmwareVersion, [0xD1#8, 0x00#8], 3), (.pollReady, [0x02#8, 0x02#8], 3),
        (.readMeasurement, [0x03#8, 0x00#8], 18)]
    let starts := ((i, cmd, n) ∈ requests ∧ s.portState = .idle) ∨
      ((i, cmd, n) ∈ commands ∧ (s.phase = .none ∨ s.phase = .write))
    let reads := (i, cmd, n) ∈ commands ∧ s.phase = .read
    (∀ x, starts → s.resetAt = some .afterWrite → s.answerTo (.write a cmd) = .ok x →
      exec i s = .next (abandoned (drawn s (.write a cmd .ok)))) ∧
    (∀ c, starts → s.resetAt = some .afterWrite → s.answerTo (.write a cmd) = .err c →
      exec i s = .next (abandoned (drawn s (.write a cmd (.err c))))) ∧
    (∀ x, starts → s.resetAt = some .afterPause → s.answerTo (.write a cmd) = .ok x →
      exec i s = .next (abandoned s1)) ∧
    (∀ x b, starts → s.resetAt = some .afterRead → s.answerTo (.write a cmd) = .ok x →
      s1.answerTo (.read a n) = .ok b → exec i s = .next (abandoned (drawn s1 (.read a n (.ok (exactly n b)))))) ∧
    (∀ x c, starts → s.resetAt = some .afterRead → s.answerTo (.write a cmd) = .ok x →
      s1.answerTo (.read a n) = .err c → exec i s = .next (abandoned (drawn s1 (.read a n (.err c))))) ∧
    (∀ b, reads → s.resetAt = some .afterRead → s.answerTo (.read a n) = .ok b →
      exec i s = .next (abandoned (drawn s (.read a n (.ok (exactly n b)))))) ∧
    (∀ c, reads → s.resetAt = some .afterRead → s.answerTo (.read a n) = .err c →
      exec i s = .next (abandoned (drawn s (.read a n (.err c)))))

/-- A reset asserted after the write of START_CONT or of its wire command (R124, R221): the request ends with no
response in the state of R220, and the write stays in the record. The instant is the model's choice (log entry 10). -/
def Obligations.ResetInsideWriteOnly : Prop :=
  ∀ (s : State) (hi lo c : Byte) (i : Instr), s.cfg.legal = true → s.resetAt = some .afterWrite →
    (i = .startCont (hi ++ lo) ∧ c = crc8 [hi, lo] ∧ s.portState = .idle) ∨
      i = .startContinuousMeasurement (hi ++ lo) c →
    let a := s.cfg.devAddr
    let cmd : Bytes := [0x00#8, 0x10#8, hi, lo, c]
    (∀ x, s.answerTo (.write a cmd) = .ok x → exec i s = .next (abandoned (drawn s (.write a cmd .ok)))) ∧
    (∀ e, s.answerTo (.write a cmd) = .err e → exec i s = .next (abandoned (drawn s (.write a cmd (.err e)))))
end

