-- ==== Sys2Proof/Laws/Bytes.lean ====
section
/-! SUPPORT. Byte order (00_scope.md R11): taking a word apart and putting it together undo each other. -/

namespace Sys2Proof.Machine

/-- The first byte of `be16`. -/
@[simp] theorem hi8_be16 (a b : Byte) : hi8 (be16 a b) = a := by
  apply BitVec.eq_of_getLsbD_eq; intro i hi
  simp only [hi8, be16, BitVec.getLsbD_extractLsb', BitVec.getLsbD_append, hi, decide_true, Bool.true_and]
  rw [if_neg (by omega)]; congr 1; omega

/-- The second byte of `be16`. -/
@[simp] theorem lo8_be16 (a b : Byte) : lo8 (be16 a b) = b := by
  apply BitVec.eq_of_getLsbD_eq; intro i hi
  simp only [lo8, be16, BitVec.getLsbD_extractLsb', BitVec.getLsbD_append, hi, decide_true, Bool.true_and, Nat.zero_add, if_true]

/-- A word is put together from its bytes. -/
@[simp] theorem be16_hi8_lo8 (w : Word16) : be16 (hi8 w) (lo8 w) = w := by
  apply BitVec.eq_of_getLsbD_eq; intro i hi
  simp only [hi8, lo8, be16, BitVec.getLsbD_extractLsb', BitVec.getLsbD_append]
  split_ifs with h
  · simp [h]
  · have h1 : i - 8 < 8 := by omega
    have h2 : 8 + (i - 8) = i := by omega
    simp [h1, h2]

/-- The bytes of a word put together from two. -/
@[simp] theorem bytes16_be16 (a b : Byte) : bytes16 (be16 a b) = [a, b] := by
  simp [bytes16, hi8_be16, lo8_be16]

/-- The bytes of a pattern put together from four. -/
@[simp] theorem bytes32_be32 (a b c d : Byte) : bytes32 (be32 a b c d) = [a, b, c, d] := by
  simp only [bytes32, be32, List.cons.injEq, and_true]
  refine ⟨?_, ?_, ?_, ?_⟩ <;> apply BitVec.eq_of_getLsbD_eq <;> intro i hi <;>
    simp only [BitVec.getLsbD_extractLsb', BitVec.getLsbD_append, hi, decide_true, Bool.true_and] <;>
    split_ifs <;> first | omega | (congr 1; omega)

/-- A pattern is put together from its bytes. -/
@[simp] theorem be32_bytes32 (x : Word32) :
    be32 (x.extractLsb' 24 8) (x.extractLsb' 16 8) (x.extractLsb' 8 8) (x.extractLsb' 0 8) = x := by
  apply BitVec.eq_of_getLsbD_eq; intro i hi
  simp only [be32, BitVec.getLsbD_extractLsb', BitVec.getLsbD_append]
  split_ifs <;> (try simp only [Nat.zero_add]) <;> rw [decide_eq_true (by omega), Bool.true_and] <;> congr 1 <;> omega

end Sys2Proof.Machine
end

