-- ==== Sys2Proof/Laws/Crc.lean ====
section
/-! SUPPORT. The register of 40_checksum.md R100. -/

namespace Sys2Proof.Machine

/-- The register goes on from what the earlier bytes left (R100). -/
theorem crc8_append (d e : Bytes) : crc8 (d ++ e) = e.foldl crcByte (crc8 d) := by
  simp [crc8, List.foldl_append]

/-- One more byte (R100). -/
theorem crc8_concat (d : Bytes) (b : Byte) : crc8 (d ++ [b]) = crcByte (crc8 d) b := by
  simp [crc8_append]

/-- The empty sequence leaves the init value (R100, R101). -/
theorem crc8_nil : crc8 [] = 0xFF#8 := rfl

/-- The validator compares the CRC of the data word (R102). -/
theorem wordValid_iff (hi lo c : Byte) : wordValid hi lo c = true ↔ crc8 [hi, lo] = c := by
  simp [wordValid]

end Sys2Proof.Machine
end

