-- ==== Sys2Proof/Laws/Decode.lean ====
section
/-! SUPPORT. What each format of 30_encoding.md R71 accepts, the opcode map R76 as a case list, and the wire commands
of R80. -/

namespace Sys2Proof

open Machine

/-- `H0` accepts no operand byte. -/
theorem decodeH0_ok {i j : Instr} {ops : Bytes} : decodeH0 i ops = .ok j ↔ ops = [] ∧ i = j := by
  unfold decodeH0; split <;> simp_all

/-- `H0` fails by its length alone. -/
theorem decodeH0_error {i : Instr} {ops : Bytes} {e : DecodeError} :
    decodeH0 i ops = .error e ↔ ops.length ≠ 0 ∧ e = .badLength := by
  cases ops <;> simp [decodeH0, eq_comm]

/-- `HCRC` accepts a count and as many data bytes. -/
theorem decodeHCRC_ok {i : Bytes → Instr} {j : Instr} {ops : Bytes} :
    decodeHCRC i ops = .ok j ↔ ∃ count d, ops = count :: d ∧ d.length = count.toNat ∧ i d = j := by
  unfold decodeHCRC
  split
  · split_ifs with h
    · simp [h]
    · simp only [List.cons.injEq, false_iff, not_exists, not_and]
      rintro c d ⟨rfl, rfl⟩ h2; exact absurd h2 h
  · simp

/-- `HCRC` fails by its length alone. -/
theorem decodeHCRC_error {i : Bytes → Instr} {ops : Bytes} {e : DecodeError} :
    decodeHCRC i ops = .error e ↔ ¬(∃ count d, ops = count :: d ∧ d.length = count.toNat) ∧ e = .badLength := by
  unfold decodeHCRC
  split
  · split_ifs with h
    · simp [h]
    · simp only [Except.error.injEq, List.cons.injEq, not_exists, not_and]
      constructor
      · rintro rfl; exact ⟨by rintro c d ⟨rfl, rfl⟩; exact h, rfl⟩
      · rintro ⟨_, rfl⟩; rfl
  · simp [eq_comm]

/-- `HCHK` accepts three operand bytes. -/
theorem decodeHCHK_ok {i : Byte → Byte → Byte → Instr} {j : Instr} {ops : Bytes} :
    decodeHCHK i ops = .ok j ↔ ∃ b0 b1 c, ops = [b0, b1, c] ∧ i b0 b1 c = j := by
  unfold decodeHCHK; split
  · simp
  · rename_i h; simp only [reduceCtorEq, false_iff, not_exists, not_and]; rintro _ _ _ rfl; exact absurd rfl (h _ _ _)

/-- `HCHK` fails by its length alone. -/
theorem decodeHCHK_error {i : Byte → Byte → Byte → Instr} {ops : Bytes} {e : DecodeError} :
    decodeHCHK i ops = .error e ↔ ops.length ≠ 3 ∧ e = .badLength := by
  unfold decodeHCHK; split
  · simp
  · rename_i h
    have hl : ops.length ≠ 3 := fun hl => by obtain ⟨a, b, c, rfl⟩ := List.length_eq_three.1 hl; exact h _ _ _ rfl
    simp [hl, eq_comm]

/-- `H16` accepts two operand bytes, big-endian. -/
theorem decodeH16_ok {i : Word16 → Instr} {j : Instr} {ops : Bytes} :
    decodeH16 i ops = .ok j ↔ ∃ hi lo, ops = [hi, lo] ∧ i (be16 hi lo) = j := by
  unfold decodeH16; split
  · simp
  · rename_i h; simp only [reduceCtorEq, false_iff, not_exists, not_and]; rintro _ _ rfl; exact absurd rfl (h _ _)

/-- `H16` fails by its length alone. -/
theorem decodeH16_error {i : Word16 → Instr} {ops : Bytes} {e : DecodeError} :
    decodeH16 i ops = .error e ↔ ops.length ≠ 2 ∧ e = .badLength := by
  unfold decodeH16; split
  · simp
  · rename_i h
    have hl : ops.length ≠ 2 := fun hl => by obtain ⟨a, b, rfl⟩ := List.length_eq_two.1 hl; exact h _ _ rfl
    simp [hl, eq_comm]

/-- Twelve bytes are three patterns. -/
theorem twelve_bytes {ops : Bytes} (h : ops.length = 12) :
    ∃ a0 a1 a2 a3 b0 b1 b2 b3 c0 c1 c2 c3 : Byte, ops = [a0, a1, a2, a3, b0, b1, b2, b3, c0, c1, c2, c3] := by
  match ops, h with
  | [a0, a1, a2, a3, b0, b1, b2, b3, c0, c1, c2, c3], _ => exact ⟨_, _, _, _, _, _, _, _, _, _, _, _, rfl⟩

/-- `HM` accepts twelve operand bytes. -/
theorem decodeHM_ok {i : Word32 → Word32 → Word32 → Instr} {j : Instr} {ops : Bytes} :
    decodeHM i ops = .ok j ↔ ∃ a0 a1 a2 a3 b0 b1 b2 b3 c0 c1 c2 c3 : Byte,
      ops = [a0, a1, a2, a3, b0, b1, b2, b3, c0, c1, c2, c3] ∧
        i (be32 a0 a1 a2 a3) (be32 b0 b1 b2 b3) (be32 c0 c1 c2 c3) = j := by
  constructor
  · intro h
    unfold decodeHM at h
    split at h
    · exact ⟨_, _, _, _, _, _, _, _, _, _, _, _, rfl, by simpa using h⟩
    · cases h
  · rintro ⟨a0, a1, a2, a3, b0, b1, b2, b3, c0, c1, c2, c3, rfl, h⟩; simpa [decodeHM] using h

/-- `HM` fails by its length alone. -/
theorem decodeHM_error {i : Word32 → Word32 → Word32 → Instr} {ops : Bytes} {e : DecodeError} :
    decodeHM i ops = .error e ↔ ops.length ≠ 12 ∧ e = .badLength := by
  constructor
  · intro h
    unfold decodeHM at h
    split at h
    · cases h
    · rename_i hn
      refine ⟨fun hl => ?_, by simpa [eq_comm] using h⟩
      obtain ⟨a0, a1, a2, a3, b0, b1, b2, b3, c0, c1, c2, c3, rfl⟩ := twelve_bytes hl
      exact hn _ _ _ _ _ _ _ _ _ _ _ _ rfl
  · rintro ⟨h, rfl⟩
    unfold decodeHM
    split
    · simp at h
    · rfl

/-- The opcode map (R76), and that every other first byte is an illegal opcode whatever follows it (R78). -/
theorem opcode_cases (opc : Byte) :
    opc ∈ ([0x01, 0x02, 0x10, 0x11, 0x12, 0x13, 0x20, 0x21, 0x22, 0x23, 0x24, 0x30, 0x31] : List Byte) ∨
      ∀ ops, decodeHost (opc :: ops) = .error .illegalOpcode := by
  by_cases h : opc ∈ ([0x01, 0x02, 0x10, 0x11, 0x12, 0x13, 0x20, 0x21, 0x22, 0x23, 0x24, 0x30, 0x31] : List Byte)
  · exact .inl h
  · right
    intro ops
    have hn : ∀ b : Byte, opc.toNat = b.toNat → opc = b := fun b => BitVec.eq_of_toNat_eq
    simp only [decodeHost]
    split
    all_goals first
      | rfl
      | exact absurd (hn 0x01 ‹_›) (fun e => h (by rw [e]; decide))
      | exact absurd (hn 0x02 ‹_›) (fun e => h (by rw [e]; decide))
      | exact absurd (hn 0x10 ‹_›) (fun e => h (by rw [e]; decide))
      | exact absurd (hn 0x11 ‹_›) (fun e => h (by rw [e]; decide))
      | exact absurd (hn 0x12 ‹_›) (fun e => h (by rw [e]; decide))
      | exact absurd (hn 0x13 ‹_›) (fun e => h (by rw [e]; decide))
      | exact absurd (hn 0x20 ‹_›) (fun e => h (by rw [e]; decide))
      | exact absurd (hn 0x21 ‹_›) (fun e => h (by rw [e]; decide))
      | exact absurd (hn 0x22 ‹_›) (fun e => h (by rw [e]; decide))
      | exact absurd (hn 0x23 ‹_›) (fun e => h (by rw [e]; decide))
      | exact absurd (hn 0x24 ‹_›) (fun e => h (by rw [e]; decide))
      | exact absurd (hn 0x30 ‹_›) (fun e => h (by rw [e]; decide))
      | exact absurd (hn 0x31 ‹_›) (fun e => h (by rw [e]; decide))

/-- A 16-bit word with this number is these two bytes. -/
theorem be16_toNat {hi lo : Byte} {n : Nat} (h : (be16 hi lo).toNat = n) :
    hi = BitVec.ofNat 8 (n / 256) ∧ lo = BitVec.ofNat 8 n := by
  have hw : be16 hi lo = BitVec.ofNat 16 n := by
    apply BitVec.eq_of_toNat_eq
    have hb := (be16 hi lo).isLt
    rw [BitVec.toNat_ofNat, h, Nat.mod_eq_of_lt (by omega)]
  have h1 := hi8_be16 hi lo
  have h2 := lo8_be16 hi lo
  rw [hw] at h1 h2
  have hb : n < 65536 := h ▸ (be16 hi lo).isLt
  constructor
  · rw [← h1]; apply BitVec.eq_of_toNat_eq
    simp [hi8, BitVec.extractLsb'_toNat, Nat.shiftRight_eq_div_pow, Nat.mod_eq_of_lt hb]
  · rw [← h2]; apply BitVec.eq_of_toNat_eq
    simp [lo8, BitVec.extractLsb'_toNat, Nat.mod_eq_of_lt hb]

/-- The wire commands (R80, R83), exactly. -/
theorem decodeWire_ok {b : Bytes} {i : Instr} :
    decodeWire b = .ok i ↔
      (b = [0xD1, 0x00] ∧ i = .readFirmwareVersion) ∨ (b = [0x02, 0x02] ∧ i = .pollReady) ∨
        (b = [0x03, 0x00] ∧ i = .readMeasurement) ∨
          ∃ hi lo c, b = [0x00, 0x10, hi, lo, c] ∧ i = .startContinuousMeasurement (be16 hi lo) c := by
  constructor
  · intro h
    unfold decodeWire at h
    split at h
    · split at h
      · rename_i hn; obtain ⟨rfl, rfl⟩ := be16_toNat hn; left; exact ⟨by decide, by simpa [eq_comm] using h⟩
      · rename_i hn; obtain ⟨rfl, rfl⟩ := be16_toNat hn; right; left; exact ⟨by decide, by simpa [eq_comm] using h⟩
      · rename_i hn; obtain ⟨rfl, rfl⟩ := be16_toNat hn
        right; right; left; exact ⟨by decide, by simpa [eq_comm] using h⟩
      · cases h
    · split_ifs at h with hn
      obtain ⟨rfl, rfl⟩ := be16_toNat hn
      right; right; right; exact ⟨_, _, _, rfl, by simpa [eq_comm] using h⟩
    · cases h
  · rintro (⟨rfl, rfl⟩ | ⟨rfl, rfl⟩ | ⟨rfl, rfl⟩ | ⟨hi, lo, c, rfl, rfl⟩)
    · rfl
    · rfl
    · rfl
    · rfl

end Sys2Proof
end

