-- ==== Sys2Proof/Laws/State.lean ====
section
/-! SUPPORT. One lemma per field per update of State, true by rfl. -/

namespace Sys2Proof.Machine

variable (s : State)

/-! ## `record` -/

@[simp] theorem State.record_cfg (e : Event) : (s.record e).cfg = s.cfg := rfl
@[simp] theorem State.record_updateCount (e : Event) : (s.record e).updateCount = s.updateCount := rfl
@[simp] theorem State.record_mode (e : Event) : (s.record e).mode = s.mode := rfl
@[simp] theorem State.record_histSlot (e : Event) : (s.record e).histSlot = s.histSlot := rfl
@[simp] theorem State.record_histHead (e : Event) : (s.record e).histHead = s.histHead := rfl
@[simp] theorem State.record_histCount (e : Event) : (s.record e).histCount = s.histCount := rfl
@[simp] theorem State.record_portState (e : Event) : (s.record e).portState = s.portState := rfl
@[simp] theorem State.record_phase (e : Event) : (s.record e).phase = s.phase := rfl
@[simp] theorem State.record_cmd (e : Event) : (s.record e).cmd = s.cmd := rfl
@[simp] theorem State.record_rx (e : Event) : (s.record e).rx = s.rx := rfl
@[simp] theorem State.record_resetIn (e : Event) : (s.record e).resetIn = s.resetIn := rfl
@[simp] theorem State.record_resetAt (e : Event) : (s.record e).resetAt = s.resetAt := rfl
@[simp] theorem State.record_program (e : Event) : (s.record e).program = s.program := rfl
@[simp] theorem State.record_pc (e : Event) : (s.record e).pc = s.pc := rfl
@[simp] theorem State.record_events (e : Event) : (s.record e).events = s.events ++ [e] := rfl
@[simp] theorem State.record_answers (e : Event) : (s.record e).answers = s.answers := rfl
@[simp] theorem State.record_draws (e : Event) : (s.record e).draws = s.draws := rfl

/-! ## `accept` -/

@[simp] theorem State.accept_cfg : (s.accept).cfg = s.cfg := rfl
@[simp] theorem State.accept_updateCount : (s.accept).updateCount = s.updateCount := rfl
@[simp] theorem State.accept_mode : (s.accept).mode = s.mode := rfl
@[simp] theorem State.accept_histSlot : (s.accept).histSlot = s.histSlot := rfl
@[simp] theorem State.accept_histHead : (s.accept).histHead = s.histHead := rfl
@[simp] theorem State.accept_histCount : (s.accept).histCount = s.histCount := rfl
@[simp] theorem State.accept_portState : (s.accept).portState = .busy := rfl
@[simp] theorem State.accept_phase : (s.accept).phase = s.phase := rfl
@[simp] theorem State.accept_cmd : (s.accept).cmd = s.cmd := rfl
@[simp] theorem State.accept_rx : (s.accept).rx = s.rx := rfl
@[simp] theorem State.accept_resetIn : (s.accept).resetIn = s.resetIn := rfl
@[simp] theorem State.accept_resetAt : (s.accept).resetAt = s.resetAt := rfl
@[simp] theorem State.accept_program : (s.accept).program = s.program := rfl
@[simp] theorem State.accept_pc : (s.accept).pc = s.pc := rfl
@[simp] theorem State.accept_events : (s.accept).events = s.events := rfl
@[simp] theorem State.accept_answers : (s.accept).answers = s.answers := rfl
@[simp] theorem State.accept_draws : (s.accept).draws = s.draws := rfl

/-! ## `respond` -/

@[simp] theorem State.respond_cfg (st : Status) (fields : Bytes) : (s.respond st fields).cfg = s.cfg := rfl
@[simp] theorem State.respond_updateCount (st : Status) (fields : Bytes) : (s.respond st fields).updateCount = s.updateCount := rfl
@[simp] theorem State.respond_mode (st : Status) (fields : Bytes) : (s.respond st fields).mode = s.mode := rfl
@[simp] theorem State.respond_histSlot (st : Status) (fields : Bytes) : (s.respond st fields).histSlot = s.histSlot := rfl
@[simp] theorem State.respond_histHead (st : Status) (fields : Bytes) : (s.respond st fields).histHead = s.histHead := rfl
@[simp] theorem State.respond_histCount (st : Status) (fields : Bytes) : (s.respond st fields).histCount = s.histCount := rfl
@[simp] theorem State.respond_portState (st : Status) (fields : Bytes) : (s.respond st fields).portState = .idle := rfl
@[simp] theorem State.respond_phase (st : Status) (fields : Bytes) : (s.respond st fields).phase = .none := rfl
@[simp] theorem State.respond_cmd (st : Status) (fields : Bytes) : (s.respond st fields).cmd = [] := rfl
@[simp] theorem State.respond_rx (st : Status) (fields : Bytes) : (s.respond st fields).rx = [] := rfl
@[simp] theorem State.respond_resetIn (st : Status) (fields : Bytes) : (s.respond st fields).resetIn = s.resetIn := rfl
@[simp] theorem State.respond_resetAt (st : Status) (fields : Bytes) : (s.respond st fields).resetAt = s.resetAt := rfl
@[simp] theorem State.respond_program (st : Status) (fields : Bytes) : (s.respond st fields).program = s.program := rfl
@[simp] theorem State.respond_pc (st : Status) (fields : Bytes) : (s.respond st fields).pc = s.pc + 1 := rfl
@[simp] theorem State.respond_events (st : Status) (fields : Bytes) : (s.respond st fields).events = s.events ++ [.resp st fields] := rfl
@[simp] theorem State.respond_answers (st : Status) (fields : Bytes) : (s.respond st fields).answers = s.answers := rfl
@[simp] theorem State.respond_draws (st : Status) (fields : Bytes) : (s.respond st fields).draws = s.draws := rfl

/-! ## `consume` -/

@[simp] theorem State.consume_cfg : (s.consume).cfg = s.cfg := rfl
@[simp] theorem State.consume_updateCount : (s.consume).updateCount = s.updateCount := rfl
@[simp] theorem State.consume_mode : (s.consume).mode = s.mode := rfl
@[simp] theorem State.consume_histSlot : (s.consume).histSlot = s.histSlot := rfl
@[simp] theorem State.consume_histHead : (s.consume).histHead = s.histHead := rfl
@[simp] theorem State.consume_histCount : (s.consume).histCount = s.histCount := rfl
@[simp] theorem State.consume_portState : (s.consume).portState = s.portState := rfl
@[simp] theorem State.consume_phase : (s.consume).phase = s.phase := rfl
@[simp] theorem State.consume_cmd : (s.consume).cmd = s.cmd := rfl
@[simp] theorem State.consume_rx : (s.consume).rx = s.rx := rfl
@[simp] theorem State.consume_resetIn : (s.consume).resetIn = s.resetIn := rfl
@[simp] theorem State.consume_resetAt : (s.consume).resetAt = s.resetAt := rfl
@[simp] theorem State.consume_program : (s.consume).program = s.program := rfl
@[simp] theorem State.consume_pc : (s.consume).pc = s.pc := rfl
@[simp] theorem State.consume_events : (s.consume).events = s.events := rfl
@[simp] theorem State.consume_answers : (s.consume).answers = s.answers.tail := rfl
@[simp] theorem State.consume_draws : (s.consume).draws = s.draws + 1 := rfl

/-! ## `enterWrite` -/

@[simp] theorem State.enterWrite_cfg (b : Bytes) : (s.enterWrite b).cfg = s.cfg := rfl
@[simp] theorem State.enterWrite_updateCount (b : Bytes) : (s.enterWrite b).updateCount = s.updateCount := rfl
@[simp] theorem State.enterWrite_mode (b : Bytes) : (s.enterWrite b).mode = s.mode := rfl
@[simp] theorem State.enterWrite_histSlot (b : Bytes) : (s.enterWrite b).histSlot = s.histSlot := rfl
@[simp] theorem State.enterWrite_histHead (b : Bytes) : (s.enterWrite b).histHead = s.histHead := rfl
@[simp] theorem State.enterWrite_histCount (b : Bytes) : (s.enterWrite b).histCount = s.histCount := rfl
@[simp] theorem State.enterWrite_portState (b : Bytes) : (s.enterWrite b).portState = .busy := rfl
@[simp] theorem State.enterWrite_phase (b : Bytes) : (s.enterWrite b).phase = .write := rfl
@[simp] theorem State.enterWrite_cmd (b : Bytes) : (s.enterWrite b).cmd = b := rfl
@[simp] theorem State.enterWrite_rx (b : Bytes) : (s.enterWrite b).rx = s.rx := rfl
@[simp] theorem State.enterWrite_resetIn (b : Bytes) : (s.enterWrite b).resetIn = s.resetIn := rfl
@[simp] theorem State.enterWrite_resetAt (b : Bytes) : (s.enterWrite b).resetAt = s.resetAt := rfl
@[simp] theorem State.enterWrite_program (b : Bytes) : (s.enterWrite b).program = s.program := rfl
@[simp] theorem State.enterWrite_pc (b : Bytes) : (s.enterWrite b).pc = s.pc := rfl
@[simp] theorem State.enterWrite_events (b : Bytes) : (s.enterWrite b).events = s.events := rfl
@[simp] theorem State.enterWrite_answers (b : Bytes) : (s.enterWrite b).answers = s.answers := rfl
@[simp] theorem State.enterWrite_draws (b : Bytes) : (s.enterWrite b).draws = s.draws := rfl

/-! ## `doPause` -/

@[simp] theorem State.doPause_cfg : (s.doPause).cfg = s.cfg := rfl
@[simp] theorem State.doPause_updateCount : (s.doPause).updateCount = s.updateCount := rfl
@[simp] theorem State.doPause_mode : (s.doPause).mode = s.mode := rfl
@[simp] theorem State.doPause_histSlot : (s.doPause).histSlot = s.histSlot := rfl
@[simp] theorem State.doPause_histHead : (s.doPause).histHead = s.histHead := rfl
@[simp] theorem State.doPause_histCount : (s.doPause).histCount = s.histCount := rfl
@[simp] theorem State.doPause_portState : (s.doPause).portState = s.portState := rfl
@[simp] theorem State.doPause_phase : (s.doPause).phase = .pause := rfl
@[simp] theorem State.doPause_cmd : (s.doPause).cmd = s.cmd := rfl
@[simp] theorem State.doPause_rx : (s.doPause).rx = s.rx := rfl
@[simp] theorem State.doPause_resetIn : (s.doPause).resetIn = s.resetIn := rfl
@[simp] theorem State.doPause_resetAt : (s.doPause).resetAt = s.resetAt := rfl
@[simp] theorem State.doPause_program : (s.doPause).program = s.program := rfl
@[simp] theorem State.doPause_pc : (s.doPause).pc = s.pc := rfl
@[simp] theorem State.doPause_events : (s.doPause).events = s.events ++ [.pause s.cfg.tPause] := rfl
@[simp] theorem State.doPause_answers : (s.doPause).answers = s.answers := rfl
@[simp] theorem State.doPause_draws : (s.doPause).draws = s.draws := rfl

/-! ## `enterRead` -/

@[simp] theorem State.enterRead_cfg : (s.enterRead).cfg = s.cfg := rfl
@[simp] theorem State.enterRead_updateCount : (s.enterRead).updateCount = s.updateCount := rfl
@[simp] theorem State.enterRead_mode : (s.enterRead).mode = s.mode := rfl
@[simp] theorem State.enterRead_histSlot : (s.enterRead).histSlot = s.histSlot := rfl
@[simp] theorem State.enterRead_histHead : (s.enterRead).histHead = s.histHead := rfl
@[simp] theorem State.enterRead_histCount : (s.enterRead).histCount = s.histCount := rfl
@[simp] theorem State.enterRead_portState : (s.enterRead).portState = s.portState := rfl
@[simp] theorem State.enterRead_phase : (s.enterRead).phase = .read := rfl
@[simp] theorem State.enterRead_cmd : (s.enterRead).cmd = s.cmd := rfl
@[simp] theorem State.enterRead_rx : (s.enterRead).rx = s.rx := rfl
@[simp] theorem State.enterRead_resetIn : (s.enterRead).resetIn = s.resetIn := rfl
@[simp] theorem State.enterRead_resetAt : (s.enterRead).resetAt = s.resetAt := rfl
@[simp] theorem State.enterRead_program : (s.enterRead).program = s.program := rfl
@[simp] theorem State.enterRead_pc : (s.enterRead).pc = s.pc := rfl
@[simp] theorem State.enterRead_events : (s.enterRead).events = s.events := rfl
@[simp] theorem State.enterRead_answers : (s.enterRead).answers = s.answers := rfl
@[simp] theorem State.enterRead_draws : (s.enterRead).draws = s.draws := rfl

/-! ## `enterCheck` -/

@[simp] theorem State.enterCheck_cfg (b : Bytes) : (s.enterCheck b).cfg = s.cfg := rfl
@[simp] theorem State.enterCheck_updateCount (b : Bytes) : (s.enterCheck b).updateCount = s.updateCount := rfl
@[simp] theorem State.enterCheck_mode (b : Bytes) : (s.enterCheck b).mode = s.mode := rfl
@[simp] theorem State.enterCheck_histSlot (b : Bytes) : (s.enterCheck b).histSlot = s.histSlot := rfl
@[simp] theorem State.enterCheck_histHead (b : Bytes) : (s.enterCheck b).histHead = s.histHead := rfl
@[simp] theorem State.enterCheck_histCount (b : Bytes) : (s.enterCheck b).histCount = s.histCount := rfl
@[simp] theorem State.enterCheck_portState (b : Bytes) : (s.enterCheck b).portState = s.portState := rfl
@[simp] theorem State.enterCheck_phase (b : Bytes) : (s.enterCheck b).phase = .check := rfl
@[simp] theorem State.enterCheck_cmd (b : Bytes) : (s.enterCheck b).cmd = s.cmd := rfl
@[simp] theorem State.enterCheck_rx (b : Bytes) : (s.enterCheck b).rx = b := rfl
@[simp] theorem State.enterCheck_resetIn (b : Bytes) : (s.enterCheck b).resetIn = s.resetIn := rfl
@[simp] theorem State.enterCheck_resetAt (b : Bytes) : (s.enterCheck b).resetAt = s.resetAt := rfl
@[simp] theorem State.enterCheck_program (b : Bytes) : (s.enterCheck b).program = s.program := rfl
@[simp] theorem State.enterCheck_pc (b : Bytes) : (s.enterCheck b).pc = s.pc := rfl
@[simp] theorem State.enterCheck_events (b : Bytes) : (s.enterCheck b).events = s.events := rfl
@[simp] theorem State.enterCheck_answers (b : Bytes) : (s.enterCheck b).answers = s.answers := rfl
@[simp] theorem State.enterCheck_draws (b : Bytes) : (s.enterCheck b).draws = s.draws := rfl

/-! ## `stepScheduler` -/

@[simp] theorem State.stepScheduler_cfg : (s.stepScheduler).cfg = s.cfg := rfl
@[simp] theorem State.stepScheduler_updateCount : (s.stepScheduler).updateCount = s.updateCount + 1 := rfl
@[simp] theorem State.stepScheduler_mode : (s.stepScheduler).mode = select s.cfg.refreshK s.updateCount := rfl
@[simp] theorem State.stepScheduler_histSlot : (s.stepScheduler).histSlot = s.histSlot := rfl
@[simp] theorem State.stepScheduler_histHead : (s.stepScheduler).histHead = s.histHead := rfl
@[simp] theorem State.stepScheduler_histCount : (s.stepScheduler).histCount = s.histCount := rfl
@[simp] theorem State.stepScheduler_portState : (s.stepScheduler).portState = s.portState := rfl
@[simp] theorem State.stepScheduler_phase : (s.stepScheduler).phase = s.phase := rfl
@[simp] theorem State.stepScheduler_cmd : (s.stepScheduler).cmd = s.cmd := rfl
@[simp] theorem State.stepScheduler_rx : (s.stepScheduler).rx = s.rx := rfl
@[simp] theorem State.stepScheduler_resetIn : (s.stepScheduler).resetIn = s.resetIn := rfl
@[simp] theorem State.stepScheduler_resetAt : (s.stepScheduler).resetAt = s.resetAt := rfl
@[simp] theorem State.stepScheduler_program : (s.stepScheduler).program = s.program := rfl
@[simp] theorem State.stepScheduler_pc : (s.stepScheduler).pc = s.pc := rfl
@[simp] theorem State.stepScheduler_events : (s.stepScheduler).events = s.events := rfl
@[simp] theorem State.stepScheduler_answers : (s.stepScheduler).answers = s.answers := rfl
@[simp] theorem State.stepScheduler_draws : (s.stepScheduler).draws = s.draws := rfl

/-! ## `takeReset` -/

@[simp] theorem State.takeReset_cfg : (s.takeReset).cfg = s.cfg := rfl
@[simp] theorem State.takeReset_updateCount : (s.takeReset).updateCount = 0 := rfl
@[simp] theorem State.takeReset_mode : (s.takeReset).mode = .full := rfl
@[simp] theorem State.takeReset_histSlot : (s.takeReset).histSlot = [] := rfl
@[simp] theorem State.takeReset_histHead : (s.takeReset).histHead = 0 := rfl
@[simp] theorem State.takeReset_histCount : (s.takeReset).histCount = 0 := rfl
@[simp] theorem State.takeReset_portState : (s.takeReset).portState = .idle := rfl
@[simp] theorem State.takeReset_phase : (s.takeReset).phase = .none := rfl
@[simp] theorem State.takeReset_cmd : (s.takeReset).cmd = [] := rfl
@[simp] theorem State.takeReset_rx : (s.takeReset).rx = [] := rfl
@[simp] theorem State.takeReset_resetIn : (s.takeReset).resetIn = false := rfl
@[simp] theorem State.takeReset_resetAt : (s.takeReset).resetAt = none := rfl
@[simp] theorem State.takeReset_program : (s.takeReset).program = s.program := rfl
@[simp] theorem State.takeReset_pc : (s.takeReset).pc = s.pc := rfl
@[simp] theorem State.takeReset_events : (s.takeReset).events = s.events := rfl
@[simp] theorem State.takeReset_answers : (s.takeReset).answers = s.answers := rfl
@[simp] theorem State.takeReset_draws : (s.takeReset).draws = s.draws := rfl

/-! ## `raise` and `pushEntry` -/

/-- Raising a status is responding with it (R12, R200). -/
@[simp] theorem State.raise_eq (st : Status) (info : Bytes) : s.raise st info = s.respond st info := rfl

@[simp] theorem State.pushEntry_cfg (m : Measurement) : (s.pushEntry m).cfg = s.cfg := by
  unfold State.pushEntry; split <;> rfl

@[simp] theorem State.pushEntry_updateCount (m : Measurement) : (s.pushEntry m).updateCount = s.updateCount := by
  unfold State.pushEntry; split <;> rfl

@[simp] theorem State.pushEntry_mode (m : Measurement) : (s.pushEntry m).mode = s.mode := by
  unfold State.pushEntry; split <;> rfl

@[simp] theorem State.pushEntry_portState (m : Measurement) : (s.pushEntry m).portState = s.portState := by
  unfold State.pushEntry; split <;> rfl

@[simp] theorem State.pushEntry_phase (m : Measurement) : (s.pushEntry m).phase = s.phase := by
  unfold State.pushEntry; split <;> rfl

@[simp] theorem State.pushEntry_cmd (m : Measurement) : (s.pushEntry m).cmd = s.cmd := by
  unfold State.pushEntry; split <;> rfl

@[simp] theorem State.pushEntry_rx (m : Measurement) : (s.pushEntry m).rx = s.rx := by
  unfold State.pushEntry; split <;> rfl

@[simp] theorem State.pushEntry_resetIn (m : Measurement) : (s.pushEntry m).resetIn = s.resetIn := by
  unfold State.pushEntry; split <;> rfl

@[simp] theorem State.pushEntry_resetAt (m : Measurement) : (s.pushEntry m).resetAt = s.resetAt := by
  unfold State.pushEntry; split <;> rfl

@[simp] theorem State.pushEntry_program (m : Measurement) : (s.pushEntry m).program = s.program := by
  unfold State.pushEntry; split <;> rfl

@[simp] theorem State.pushEntry_pc (m : Measurement) : (s.pushEntry m).pc = s.pc := by
  unfold State.pushEntry; split <;> rfl

@[simp] theorem State.pushEntry_events (m : Measurement) : (s.pushEntry m).events = s.events := by
  unfold State.pushEntry; split <;> rfl

@[simp] theorem State.pushEntry_answers (m : Measurement) : (s.pushEntry m).answers = s.answers := by
  unfold State.pushEntry; split <;> rfl

@[simp] theorem State.pushEntry_draws (m : Measurement) : (s.pushEntry m).draws = s.draws := by
  unfold State.pushEntry; split <;> rfl

end Sys2Proof.Machine
end

