-- ==== Sys2Proof/Laws/History.lean ====
section
/-! SUPPORT. The history storage: reads after writes, the canonical form, and the ring of 10_state.md R22. -/

namespace Sys2Proof.Machine

/-- A read after a write: the written slot holds the entry, every other slot what it held. -/
theorem Memory.read_write (mem : Memory) (j k : Nat) (m : Measurement) :
    Memory.read (Memory.write mem j m) k = if k = j then some m else Memory.read mem k := by
  induction mem with
  | nil => simp [Memory.write, Memory.read]
  | cons e rest ih =>
    obtain ⟨i, x⟩ := e
    rcases lt_trichotomy j i with h | h | h
    · simp [Memory.write, h, Memory.read]
    · subst h
      by_cases hk : k = j <;> simp [Memory.write, Memory.read, hk]
    · have h1 : ¬j < i := by omega
      have h2 : ¬j = i := by omega
      by_cases hk : k = i
      · have h3 : ¬i = j := by omega
        simp [Memory.write, Memory.read, h1, h2, hk, h3]
      · simp [Memory.write, Memory.read, h1, h2, hk, ih]

/-- A canonical storage's tail is canonical. -/
theorem Memory.wf_tail {e : Nat × Measurement} {rest : Memory} (h : Memory.wf (e :: rest) = true) :
    Memory.wf rest = true := by
  cases rest with
  | nil => rfl
  | cons f rest => simp_all [Memory.wf]

/-- A canonical tail below a smaller number is canonical. -/
theorem Memory.wf_cons {j : Nat} {m : Measurement} {rest : Memory} (hwf : Memory.wf rest = true)
    (hlt : ∀ e ∈ rest.head?, j < e.1) : Memory.wf ((j, m) :: rest) = true := by
  cases rest with
  | nil => rfl
  | cons f rest => simpa [Memory.wf, hwf] using hlt f (by simp)

/-- The number a write leaves first. -/
theorem Memory.write_head (mem : Memory) (j : Nat) (m : Measurement) :
    ∀ e ∈ (Memory.write mem j m).head?, e.1 = j ∨ ∃ f ∈ mem.head?, e.1 = f.1 := by
  intro e he
  cases mem with
  | nil =>
    left
    have h : (j, m) = e := by simpa [Memory.write] using he
    rw [← h]
  | cons f rest =>
    simp only [Memory.write] at he
    split_ifs at he
    · left
      have h : (j, m) = e := by simpa using he
      rw [← h]
    · left
      have h : (j, m) = e := by simpa using he
      rw [← h]
    · right
      have h : f = e := by simpa using he
      exact ⟨f, by simp, by rw [h]⟩

/-- A write keeps the canonical form. -/
theorem Memory.wf_write (mem : Memory) (j : Nat) (m : Measurement) (h : Memory.wf mem = true) :
    Memory.wf (Memory.write mem j m) = true := by
  induction mem with
  | nil => rfl
  | cons e rest ih =>
    obtain ⟨k, x⟩ := e
    simp only [Memory.write]
    split_ifs with h1 h2
    · exact Memory.wf_cons h (by simpa using h1)
    · subst h2
      refine Memory.wf_cons (Memory.wf_tail h) fun f hf => ?_
      cases rest <;> simp_all [Memory.wf]
    · refine Memory.wf_cons (ih (Memory.wf_tail h)) fun f hf => ?_
      rcases Memory.write_head rest j m f hf with hj | ⟨g, hg, hfg⟩
      · omega
      · cases rest <;> simp_all [Memory.wf]

/-- The slots a storage lists after a write. -/
theorem Memory.mem_write (mem : Memory) (j : Nat) (m : Measurement) :
    ∀ e ∈ Memory.write mem j m, e = (j, m) ∨ e ∈ mem := by
  induction mem with
  | nil => simp [Memory.write]
  | cons f rest ih =>
    intro e he
    simp only [Memory.write] at he
    split_ifs at he <;> simp only [List.mem_cons] at he ⊢
    · tauto
    · tauto
    · rcases he with he | he
      · tauto
      · rcases ih e he with h | h <;> tauto

/-- What a push leaves in each slot (R160): one slot is written, and it is the slot of the new entry. -/
theorem State.pushEntry_slots (s : State) (m : Measurement) :
    ∃ j, (s.pushEntry m).histSlot = Memory.write s.histSlot j m ∧
      (s.histCount.toNat < s.cfg.histCap.toNat ∧ j = s.slotIndex s.histCount.toNat ∧
          (s.pushEntry m).histHead = s.histHead ∧ (s.pushEntry m).histCount = s.histCount + 1 ∨
        s.cfg.histCap.toNat ≤ s.histCount.toNat ∧ j = s.histHead.toNat ∧
          (s.pushEntry m).histHead = BitVec.ofNat 16 (s.slotIndex 1) ∧
          (s.pushEntry m).histCount = s.histCount) := by
  by_cases h : s.histCount.toNat < s.cfg.histCap.toNat
  · exact ⟨_, by simp only [State.pushEntry, if_pos h], .inl ⟨h, rfl, by simp [State.pushEntry, h], by simp [State.pushEntry, h]⟩⟩
  · exact ⟨_, by simp only [State.pushEntry, if_neg h], .inr ⟨by omega, rfl, by simp [State.pushEntry, h], by simp [State.pushEntry, h]⟩⟩

/-- The history's length is `hist_count` (R22). -/
@[simp] theorem State.length_history (s : State) : s.history.length = s.histCount.toNat := by
  simp [State.history]

/-- The entry at a position below the count (R22). -/
theorem State.getElem_history (s : State) (i : Nat) (h : i < s.history.length) :
    s.history[i] = s.entryAt i := by
  simp [State.history]

/-- The storage is in canonical form at reset. -/
theorem reset_memory_wf : Memory.wf State.reset.histSlot = true := rfl

end Sys2Proof.Machine
end

