-- ==== Sys2Proof/Laws/Ops.lean ====
section
/-! SUPPORT. For each shared operation, once, everything it can do. -/

namespace Sys2Proof.Machine

/-- `serve` on an Idle port under a legal configuration runs the request (R74). -/
theorem serve_idle {s : State} {run : State → State} (hl : s.cfg.legal = true) (hp : s.portState = .idle) :
    serve s run = .next (run s.accept) := by simp [serve, hl, hp]

/-- `serve` on a Busy port holds the request (R74). -/
theorem serve_busy {s : State} {run : State → State} (hl : s.cfg.legal = true) (hp : s.portState = .busy) :
    serve s run = .next s := by simp [serve, hl, hp]

/-- `serve` under an illegal configuration refuses (R223). -/
theorem serve_illegal {s : State} {run : State → State} (hl : s.cfg.legal = false) :
    serve s run = .refused .illegalConfiguration := by simp [serve, hl]

/-- Everything `serve` can answer with a next state. -/
theorem serve_next {s t : State} {run : State → State} (h : serve s run = .next t) :
    s.cfg.legal = true ∧ (s.portState = .idle ∧ t = run s.accept ∨ s.portState = .busy ∧ t = s) := by
  cases hl : s.cfg.legal with
  | false => simp [serve, hl] at h
  | true =>
    cases hp : s.portState with
    | idle => exact ⟨rfl, .inl ⟨rfl, by simpa [serve, hl, hp] using h.symm⟩⟩
    | busy => exact ⟨rfl, .inr ⟨rfl, by simpa [serve, hl, hp] using h.symm⟩⟩

/-- `serveWire` under a legal configuration runs the command. -/
theorem serveWire_legal {s : State} {run : State → State} (hl : s.cfg.legal = true) :
    serveWire s run = .next (run s) := by simp [serveWire, hl]

/-- `serveWire` under an illegal configuration refuses (R223). -/
theorem serveWire_illegal {s : State} {run : State → State} (hl : s.cfg.legal = false) :
    serveWire s run = .refused .illegalConfiguration := by simp [serveWire, hl]

/-- Everything `serveWire` can answer with a next state. -/
theorem serveWire_next {s t : State} {run : State → State} (h : serveWire s run = .next t) :
    s.cfg.legal = true ∧ t = run s := by
  cases hl : s.cfg.legal with
  | false => simp [serveWire, hl] at h
  | true => exact ⟨rfl, by simpa [serveWire, hl] using h.symm⟩

/-- Responding leaves `answeredWith`, whatever the port and the framer held. -/
theorem respond_eq (s : State) (st : Status) (fields : Bytes) :
    s.respond st fields = answeredWith s st fields := rfl

/-- Accepting does not show in the answered state. -/
@[simp] theorem answeredWith_accept (s : State) (st : Status) (fields : Bytes) :
    answeredWith s.accept st fields = answeredWith s st fields := rfl

/-- The oracle's answer depends on the known answers, the draws and the record alone (R55). -/
theorem State.answerTo_congr {s t : State} (ha : t.answers = s.answers) (hd : t.draws = s.draws)
    (he : t.events = s.events) (op : BusOp) : t.answerTo op = s.answerTo op := by
  simp [State.answerTo, ha, hd, he]

/-- Accepting asks nothing of the oracle. -/
@[simp] theorem State.answerTo_accept (s : State) (op : BusOp) : s.accept.answerTo op = s.answerTo op := rfl

/-- Entering WRITE asks nothing of the oracle. -/
@[simp] theorem State.answerTo_enterWrite (s : State) (cmd : Bytes) (op : BusOp) :
    (s.enterWrite cmd).answerTo op = s.answerTo op := rfl

/-- Entering READ asks nothing of the oracle. -/
@[simp] theorem State.answerTo_enterRead (s : State) (op : BusOp) : s.enterRead.answerTo op = s.answerTo op := rfl

/-! ## A reset inside a transaction (R221) -/

/-- Taking the reset input leaves `abandoned`, whatever the request had done. -/
theorem takeReset_eq (s : State) : s.takeReset = abandoned s := rfl

/-- What the framer held and what a response would write does not outlive a reset. -/
@[simp] theorem abandoned_enterWrite (s : State) (cmd : Bytes) : abandoned (s.enterWrite cmd) = abandoned s := rfl
@[simp] theorem abandoned_enterRead (s : State) : abandoned s.enterRead = abandoned s := rfl
@[simp] theorem abandoned_enterCheck (s : State) (b : Bytes) : abandoned (s.enterCheck b) = abandoned s := rfl
@[simp] theorem abandoned_accept (s : State) : abandoned s.accept = abandoned s := rfl

/-- The reset input is asserted at this instant. -/
theorem orReset_taken {p : ResetPoint} {next : State → State} {s : State} (h : s.resetAt = some p) :
    orReset p next s = abandoned s := by simp [orReset, h, takeReset_eq]

/-- The reset input is not asserted at this instant. -/
theorem orReset_passed {p : ResetPoint} {next : State → State} {s : State} (h : s.resetAt ≠ some p) :
    orReset p next s = next s := by simp [orReset, h]

/-- Everything an instant of a transaction can do. -/
theorem orReset_eq (p : ResetPoint) (next : State → State) (s : State) :
    orReset p next s = if s.resetAt = some p then abandoned s else next s := rfl

/-! ## The primitives and the transactions -/

/-- `busWrite` by the oracle's answer: on, failed, waiting, or abandoned by a reset. -/
theorem busWrite_eq (cmd : Bytes) (next : State → State) (s : State) :
    busWrite cmd next s =
      match s.answerTo (.write s.cfg.devAddr cmd) with
      | .ok _ =>
        if s.resetAt = some .afterWrite then abandoned (drawn s (.write s.cfg.devAddr cmd .ok))
        else next ((s.enterWrite cmd).consume.record (.write s.cfg.devAddr cmd .ok))
      | .err c =>
        if s.resetAt = some .afterWrite then abandoned (drawn s (.write s.cfg.devAddr cmd (.err c)))
        else answeredWith (drawn s (.write s.cfg.devAddr cmd (.err c))) .transportFailure c
      | .pending => waiting s .write cmd := by
  unfold busWrite
  simp only [State.answerTo_enterWrite, State.enterWrite_cfg]
  cases s.answerTo (.write s.cfg.devAddr cmd) <;> rfl

/-- `busRead` by the oracle's answer: on with exactly `n` bytes, failed, waiting, or abandoned by a reset. -/
theorem busRead_eq (n : Nat) (next : State → State) (s : State) :
    busRead n next s =
      match s.answerTo (.read s.cfg.devAddr n) with
      | .ok b =>
        if s.resetAt = some .afterRead then abandoned (drawn s (.read s.cfg.devAddr n (.ok (exactly n b))))
        else
          next ((s.enterRead.consume.record (.read s.cfg.devAddr n (.ok (exactly n b)))).enterCheck (exactly n b))
      | .err c =>
        if s.resetAt = some .afterRead then abandoned (drawn s (.read s.cfg.devAddr n (.err c)))
        else answeredWith (drawn s (.read s.cfg.devAddr n (.err c))) .transportFailure c
      | .pending => { s.consume with phase := .read } := by
  unfold busRead
  simp only [State.answerTo_enterRead, State.enterRead_cfg]
  cases s.answerTo (.read s.cfg.devAddr n) <;> rfl

/-- Everything phases READ and CHECK can do (R122, R221): wait, fail, mismatch, answer, or be abandoned. -/
theorem readPhase_eq (n : Nat) (fields : List Word16 → Bytes) (s : State) :
    readPhase n fields s =
      match s.answerTo (.read s.cfg.devAddr n) with
      | .ok b =>
        if s.resetAt = some .afterRead then abandoned (drawn s (.read s.cfg.devAddr n (.ok (exactly n b))))
        else if groupsValid (exactly n b) then
          answeredWith (drawn s (.read s.cfg.devAddr n (.ok (exactly n b)))) .ok (fields (dataWords (exactly n b)))
        else answeredWith (drawn s (.read s.cfg.devAddr n (.ok (exactly n b)))) .checksumMismatch []
      | .err c =>
        if s.resetAt = some .afterRead then abandoned (drawn s (.read s.cfg.devAddr n (.err c)))
        else answeredWith (drawn s (.read s.cfg.devAddr n (.err c))) .transportFailure c
      | .pending => { s.consume with phase := .read } := by
  rw [readPhase, busRead_eq]
  cases s.answerTo (.read s.cfg.devAddr n) with
  | ok b =>
    simp only [checkPhase, State.enterCheck_rx]
    by_cases h : groupsValid (exactly n b) = true
    · simp only [h, if_true]; rfl
    · simp only [h]; rfl
  | err c => rfl
  | pending => rfl

/-- Everything a transaction can do from its first phase (R122, R126, R221). -/
theorem transact_eq (cmd : Bytes) (n : Nat) (fields : List Word16 → Bytes) (s : State) :
    transact cmd n fields s =
      match s.answerTo (.write s.cfg.devAddr cmd) with
      | .ok _ =>
        if s.resetAt = some .afterWrite then abandoned (drawn s (.write s.cfg.devAddr cmd .ok))
        else if s.resetAt = some .afterPause then abandoned (wroteAndPaused s cmd)
        else readPhase n fields ((s.enterWrite cmd).consume.record (.write s.cfg.devAddr cmd .ok)).doPause
      | .err c =>
        if s.resetAt = some .afterWrite then abandoned (drawn s (.write s.cfg.devAddr cmd (.err c)))
        else answeredWith (drawn s (.write s.cfg.devAddr cmd (.err c))) .transportFailure c
      | .pending => waiting s .write cmd := by
  have hq : abandoned ((s.enterWrite cmd).consume.record (.write s.cfg.devAddr cmd .ok)).doPause =
      abandoned (wroteAndPaused s cmd) := by
    simp [abandoned, State.enterWrite, State.consume, State.record, State.doPause, wroteAndPaused]
  rw [transact, busWrite_eq]
  simp only [pausePhase, orReset_eq, hq]
  rfl

/-- A transaction whose command was written, with no reset before its read: everything that can follow (R122, R125,
R221), from the record of the write and the pause on. -/
theorem transact_written {cmd : Bytes} {n : Nat} {fields : List Word16 → Bytes} {s : State} {x : Bytes}
    (hw : s.answerTo (.write s.cfg.devAddr cmd) = .ok x) (hr : s.resetAt = none ∨ s.resetAt = some .afterRead) :
    transact cmd n fields s =
      match (wroteAndPaused s cmd).answerTo (.read s.cfg.devAddr n) with
      | .ok b =>
        if s.resetAt = some .afterRead then
          abandoned (drawn (wroteAndPaused s cmd) (.read s.cfg.devAddr n (.ok (exactly n b))))
        else if groupsValid (exactly n b) then
          answeredWith (drawn (wroteAndPaused s cmd) (.read s.cfg.devAddr n (.ok (exactly n b)))) .ok
            (fields (dataWords (exactly n b)))
        else
          answeredWith (drawn (wroteAndPaused s cmd) (.read s.cfg.devAddr n (.ok (exactly n b)))) .checksumMismatch []
      | .err c =>
        if s.resetAt = some .afterRead then
          abandoned (drawn (wroteAndPaused s cmd) (.read s.cfg.devAddr n (.err c)))
        else answeredWith (drawn (wroteAndPaused s cmd) (.read s.cfg.devAddr n (.err c))) .transportFailure c
      | .pending => waiting (wroteAndPaused s cmd) .read cmd := by
  have hq : ((s.enterWrite cmd).consume.record (.write s.cfg.devAddr cmd .ok)).doPause =
      { wroteAndPaused s cmd with portState := .busy, phase := .pause, cmd := cmd } := by
    simp [State.enterWrite, State.consume, State.record, State.doPause, wroteAndPaused]
  have hp : s.resetAt ≠ some .afterWrite ∧ s.resetAt ≠ some .afterPause := by
    rcases hr with h | h <;> simp [h]
  rw [transact_eq, hw]
  simp only [hp.1, hp.2, if_false, hq, readPhase_eq]
  rfl

/-- Everything a write-only transaction can do (R124, R221). -/
theorem writeOnly_eq (cmd : Bytes) (s : State) :
    writeOnly cmd s =
      match s.answerTo (.write s.cfg.devAddr cmd) with
      | .ok _ =>
        if s.resetAt = some .afterWrite then abandoned (drawn s (.write s.cfg.devAddr cmd .ok))
        else answeredWith (drawn s (.write s.cfg.devAddr cmd .ok)) .ok []
      | .err c =>
        if s.resetAt = some .afterWrite then abandoned (drawn s (.write s.cfg.devAddr cmd (.err c)))
        else answeredWith (drawn s (.write s.cfg.devAddr cmd (.err c))) .transportFailure c
      | .pending => waiting s .write cmd := by
  rw [writeOnly, busWrite_eq]
  cases s.answerTo (.write s.cfg.devAddr cmd) <;> rfl

/-- What a read delivers has exactly the length asked for (R55). -/
@[simp] theorem length_exactly (n : Nat) (b : Bytes) : (exactly n b).length = n := by
  simp [exactly]

/-- A read that already has the right length is delivered as it is (R55). -/
theorem exactly_of_length {n : Nat} {b : Bytes} (h : b.length = n) : exactly n b = b := by
  subst h; simp [exactly]

/-- Everything `rejectBytes` can answer with a next state: the status of the decode error and nothing else (R75). -/
theorem rejectBytes_next {e : DecodeError} {s t : State} (h : rejectBytes e s = .next t) :
    e = .badLength ∧ t = answeredWith s .badLength [] ∨ e = .illegalOpcode ∧ t = answeredWith s .illegalOpcode [] := by
  cases e <;> simp [rejectBytes] at h
  · exact .inl ⟨rfl, h ▸ rfl⟩
  · exact .inr ⟨rfl, h ▸ rfl⟩

/-- Everything a step can do (R75, R221, R223). -/
theorem step_next {s t : State} (h : step s = .next t) :
    s.cfg.legal = true ∧
      (s.resetIn = true ∧ t = s.takeReset ∨
        s.resetIn = false ∧
          (fetch s = .nothing ∧ t = s ∨
            ∃ p b, fetch s = .bytes p b ∧
              ((∃ i, decode p b = .ok i ∧ exec i s = .next t) ∨
                ∃ e, decode p b = .error e ∧ rejectBytes e s = .next t))) := by
  unfold step at h
  cases hl : s.cfg.legal with
  | false => simp [hl] at h
  | true =>
    refine ⟨rfl, ?_⟩
    cases hr : s.resetIn with
    | true => left; simpa [hl, hr, eq_comm] using h
    | false =>
      right
      refine ⟨rfl, ?_⟩
      cases hf : fetch s with
      | nothing => left; simpa [hl, hr, hf, eq_comm] using h
      | bytes p b =>
        right
        refine ⟨p, b, rfl, ?_⟩
        simp only [hl, hr, hf, if_true, Bool.false_eq_true, if_false] at h
        cases hd : decode p b with
        | ok i => exact .inl ⟨i, rfl, by simpa [hd] using h⟩
        | error e => exact .inr ⟨e, rfl, by simpa [hd] using h⟩

end Sys2Proof.Machine
end

