-- ==== Sys2Proof/Laws/PerInstr.lean ====
section
/-! SUPPORT. Per-instruction laws about the syntax: how many bytes an instruction takes (30_encoding.md R71, R79,
R80: the table's "length_bytes"). -/

namespace Sys2Proof.Laws

/-- The table's "length_bytes". -/
def lengthBytes : Instr → Nat
  | .crc8 d => 2 + d.length
  | .crcCheck _ _ _ => 4
  | .fwVersion => 1
  | .measReady => 1
  | .startCont _ => 3
  | .getMeas => 1
  | .histPush _ _ _ => 13
  | .histLen => 1
  | .histFull => 1
  | .histRead _ => 3
  | .histCap => 1
  | .schedStep => 1
  | .schedRead => 1
  | .readFirmwareVersion => 2
  | .pollReady => 2
  | .readMeasurement => 2
  | .startContinuousMeasurement _ _ => 5

/-- The encoding has the table's length. -/
def EncodeLength.Statement (i : Instr) : Prop := (encode i).length = lengthBytes i

theorem EncodeLength.crc8 (d : Bytes) : EncodeLength.Statement (.crc8 d) := by
  simp only [EncodeLength.Statement, encode, lengthBytes, List.length_cons]; omega
theorem EncodeLength.crcCheck (b0 b1 c : Byte) : EncodeLength.Statement (.crcCheck b0 b1 c) := rfl
theorem EncodeLength.fwVersion : EncodeLength.Statement .fwVersion := rfl
theorem EncodeLength.measReady : EncodeLength.Statement .measReady := rfl
theorem EncodeLength.startCont (p : Word16) : EncodeLength.Statement (.startCont p) := rfl
theorem EncodeLength.getMeas : EncodeLength.Statement .getMeas := rfl
theorem EncodeLength.histPush (co2 temp hum : Word32) : EncodeLength.Statement (.histPush co2 temp hum) := rfl
theorem EncodeLength.histLen : EncodeLength.Statement .histLen := rfl
theorem EncodeLength.histFull : EncodeLength.Statement .histFull := rfl
theorem EncodeLength.histRead (i : Word16) : EncodeLength.Statement (.histRead i) := rfl
theorem EncodeLength.histCap : EncodeLength.Statement .histCap := rfl
theorem EncodeLength.schedStep : EncodeLength.Statement .schedStep := rfl
theorem EncodeLength.schedRead : EncodeLength.Statement .schedRead := rfl
theorem EncodeLength.readFirmwareVersion : EncodeLength.Statement .readFirmwareVersion := rfl
theorem EncodeLength.pollReady : EncodeLength.Statement .pollReady := rfl
theorem EncodeLength.readMeasurement : EncodeLength.Statement .readMeasurement := rfl
theorem EncodeLength.startContinuousMeasurement (p : Word16) (c : Byte) :
    EncodeLength.Statement (.startContinuousMeasurement p c) := rfl

end Sys2Proof.Laws
end

