-- ==== Sys2Proof/Tests/Slice0.lean ====
section
/-! SUPPORT. Tests: expected values are the vectors of spec/95_test_vectors.md (their ids in the comments) or worked
by hand from the rules; then one witness for the hypotheses of every statement. -/

namespace Sys2Proof.Tests

open Sys2Proof Sys2Proof.Machine

set_option maxRecDepth 20000

/-! ## Helpers -/

/-- A small legal configuration: N = 2, K = 10. -/
def smallCfg : Config := { histCap := 2, refreshK := 10, devAddr := 0x61, tPause := 3 }

/-- Right after reset under that configuration. -/
def idle : State := { State.reset with cfg := smallCfg }

/-- Idle, with the oracle's answers known. -/
def hearing (known : List Answer) : State := { idle with answers := known }

/-- Idle, with this frame presented next. -/
def presented (f : Bytes) : State := { idle with program := [f] }

/-- Waiting in phase READ of this command, with the oracle's answers known. -/
def reading (cmd : Bytes) (known : List Answer) : State :=
  { idle with
    portState := .busy, phase := .read, cmd := cmd, answers := known
    events := [.write 0x61 cmd .ok, .pause 3] }

/-- Waiting in phase WRITE of this command, with the oracle's answers known. -/
def writing (cmd : Bytes) (known : List Answer) : State :=
  { idle with portState := .busy, phase := .write, cmd := cmd, answers := known }

/-- The record of an outcome. -/
def recordOf : Host.Outcome State Fault Refusal → List Event
  | .next s => s.events
  | .fault _ => []
  | .refused _ => []

/-- Whether an outcome is a next state. -/
def goesOn : Host.Outcome State Fault Refusal → Bool
  | .next _ => true
  | .fault _ => false
  | .refused _ => false

/-- What a property says of a next state. -/
def nextHas (p : State → Bool) : Host.Outcome State Fault Refusal → Bool
  | .next s => p s
  | .fault _ => false
  | .refused _ => false

def m1 : Measurement := ⟨1, 2, 3⟩
def m2 : Measurement := ⟨4, 5, 6⟩

/-- A full history `[m1, m2]` of a ring of two, the oldest in slot 1. -/
def full : State := { idle with histSlot := [(0, m2), (1, m1)], histHead := 1, histCount := 2 }

/-- The same history with the oldest in slot 0. -/
def full' : State := { idle with histSlot := [(0, m1), (1, m2)], histHead := 0, histCount := 2 }

/-- The response of vector G1: 400.0, 21.5 and 45.0. -/
def sampleM : Bytes :=
  [0x43, 0xC8, 0xDB, 0x00, 0x00, 0x81, 0x41, 0xAC, 0x7D, 0x00, 0x00, 0x81, 0x42, 0x34, 0xD0, 0x00, 0x00, 0x81]

def fwCmd : Bytes := [0xD1, 0x00]
def rdyCmd : Bytes := [0x02, 0x02]
def measCmd : Bytes := [0x03, 0x00]

/-! ## WellFormed refuses each ill-formed term -/

theorem test_wf_crc8_too_long : (Instr.crc8 (List.replicate 256 0)).wellFormed = false := by decide
theorem test_wf_crc8_longest : (Instr.crc8 (List.replicate 255 0)).wellFormed = true := by decide
theorem test_wf_bad_pressure_checksum : (Instr.startContinuousMeasurement 1013 0xDA).wellFormed = false := by decide
theorem test_wf_pressure_checksum : (Instr.startContinuousMeasurement 1013 0xDB).wellFormed = true := by decide

/-! ## Decoding: each constructor by a word written from R71, R76, R80, R85 -/

theorem test_decode_crc8 : decode .host [0x01, 0x02, 0x03, 0x47] = .ok (.crc8 [0x03, 0x47]) := by rfl
theorem test_decode_crcCheck : decode .host [0x02, 0xBE, 0xEF, 0x92] = .ok (.crcCheck 0xBE 0xEF 0x92) := by rfl
theorem test_decode_fwVersion : decode .host [0x10] = .ok .fwVersion := by rfl
theorem test_decode_measReady : decode .host [0x11] = .ok .measReady := by rfl
theorem test_decode_startCont : decode .host [0x12, 0x03, 0xF5] = .ok (.startCont 1013) := by rfl
theorem test_decode_getMeas : decode .host [0x13] = .ok .getMeas := by rfl
theorem test_decode_histPush :
    decode .host [0x20, 0x43, 0xC8, 0x00, 0x01, 0x41, 0xAC, 0x00, 0x02, 0x42, 0x34, 0x00, 0x03] =
      .ok (.histPush 0x43C80001 0x41AC0002 0x42340003) := by rfl
theorem test_decode_histLen : decode .host [0x21] = .ok .histLen := by rfl
theorem test_decode_histFull : decode .host [0x22] = .ok .histFull := by rfl
theorem test_decode_histRead : decode .host [0x23, 0x01, 0x02] = .ok (.histRead 258) := by rfl
theorem test_decode_histCap : decode .host [0x24] = .ok .histCap := by rfl
theorem test_decode_schedStep : decode .host [0x30] = .ok .schedStep := by rfl
theorem test_decode_schedRead : decode .host [0x31] = .ok .schedRead := by rfl
theorem test_decode_readFirmwareVersion : decode .wire [0xD1, 0x00] = .ok .readFirmwareVersion := by rfl
theorem test_decode_pollReady : decode .wire [0x02, 0x02] = .ok .pollReady := by rfl
theorem test_decode_readMeasurement : decode .wire [0x03, 0x00] = .ok .readMeasurement := by rfl
theorem test_decode_startContinuousMeasurement :
    decode .wire [0x00, 0x10, 0x03, 0xF5, 0xDB] = .ok (.startContinuousMeasurement 1013 0xDB) := by rfl

/-- X1 to X4: empty, unassigned, and the opcode check before the length check. -/
theorem test_decode_rejects_opcodes :
    decode .host [] = .error .badLength ∧ decode .host [0x00] = .error .illegalOpcode ∧
      decode .host [0x40, 0x01, 0x02] = .error .illegalOpcode ∧ decode .host [0x32] = .error .illegalOpcode := by
  exact ⟨rfl, rfl, rfl, rfl⟩

/-- X6 to X14: wrong lengths. -/
theorem test_decode_rejects_lengths :
    decode .host [0x10, 0x00] = .error .badLength ∧ decode .host [0x02, 0x01, 0x02] = .error .badLength ∧
      decode .host [0x12, 0x00] = .error .badLength ∧ decode .host [0x01] = .error .badLength ∧
      decode .host [0x01, 0x00, 0xAA] = .error .badLength ∧ decode .host [0x01, 0x03, 0xAA, 0xBB] = .error .badLength ∧
      decode .host [0x23] = .error .badLength ∧ decode .host [0x31, 0x00, 0x00] = .error .badLength := by
  exact ⟨rfl, rfl, rfl, rfl, rfl, rfl, rfl, rfl⟩

/-- R83: no other bytes are a wire command. -/
theorem test_decode_rejects_wire :
    decode .wire [0xD1, 0x01] = .error .notAWireCommand ∧ decode .wire [0xD1] = .error .notAWireCommand ∧
      decode .wire [0x00, 0x11, 0x00, 0x00, 0x81] = .error .notAWireCommand := by
  exact ⟨rfl, rfl, rfl⟩

/-- The table's rows, by their match values. -/
theorem test_table_words :
    [(8, 0x01), (8, 0x02), (8, 0x10), (8, 0x11), (8, 0x12), (8, 0x13), (8, 0x20), (8, 0x21), (8, 0x22), (8, 0x23),
        (8, 0x24), (8, 0x30), (8, 0x31), (16, 0xD100), (16, 0x0202), (16, 0x0300), (16, 0x0010)].map
        (fun e => decodeTableWord e.1 e.2) =
      [some (.crc8 []), some (.crcCheck 0 0 0), some .fwVersion, some .measReady, some (.startCont 0), some .getMeas,
        some (.histPush 0 0 0), some .histLen, some .histFull, some (.histRead 0), some .histCap, some .schedStep,
        some .schedRead, some .readFirmwareVersion, some .pollReady, some .readMeasurement,
        some (.startContinuousMeasurement 0 0)] := by decide

/-- Each row runs as the first instruction after reset, though configuration and oracle are open. -/
theorem test_table_words_run :
    [(8, 0x01), (8, 0x02), (8, 0x10), (8, 0x11), (8, 0x12), (8, 0x13), (8, 0x20), (8, 0x21), (8, 0x22), (8, 0x23),
        (8, 0x24), (8, 0x30), (8, 0x31), (16, 0xD100), (16, 0x0202), (16, 0x0300), (16, 0x0010)].all
        (fun e => goesOn (step (State.reset.withFetchWord e.1 e.2))) = true := by decide

/-! ## The checksum engine -/

/-- C1, C3, C9, C11, C16. -/
theorem test_crc8_vectors :
    crc8 [] = 0xFF ∧ crc8 [0xFF] = 0x00 ∧ crc8 [0x00, 0x01] = 0xB0 ∧ crc8 [0x01, 0x00] = 0x75 ∧
      crc8 [0x03, 0xF5] = 0xDB := by decide

/-- C23, the catalogue check value. -/
theorem test_crc8_check_value : crc8 [0x31, 0x32, 0x33, 0x34, 0x35, 0x36, 0x37, 0x38, 0x39] = 0xF7 := by decide

/-- H4. -/
theorem test_crc8_request : recordOf (exec (.crc8 [0xBE, 0xEF]) idle) = [.resp .ok [0x92]] := by decide

/-- H8, H9: a mismatch is a result. -/
theorem test_crcCheck_request :
    recordOf (exec (.crcCheck 0xBE 0xEF 0x92) idle) = [.resp .ok [0x01]] ∧
      recordOf (exec (.crcCheck 0x03 0x47 0x07) idle) = [.resp .ok [0x00]] := by decide

/-! ## The protocol framer -/

/-- F1. -/
theorem test_fwVersion :
    recordOf (exec .fwVersion (hearing [.ok [], .ok [0x03, 0x47, 0x06]])) =
      [.write 0x61 fwCmd .ok, .pause 3, .read 0x61 3 (.ok [0x03, 0x47, 0x06]), .resp .ok [0x03, 0x47]] := by decide

/-- F2, F6. -/
theorem test_fwVersion_errors :
    recordOf (exec .fwVersion (hearing [.ok [], .ok [0x03, 0x47, 0x07]])) =
        [.write 0x61 fwCmd .ok, .pause 3, .read 0x61 3 (.ok [0x03, 0x47, 0x07]), .resp .checksumMismatch []] ∧
      recordOf (exec .fwVersion (hearing [.err [0xC1]])) =
        [.write 0x61 fwCmd (.err [0xC1]), .resp .transportFailure [0xC1]] := by decide

/-- Y1, Y6: bit 0 set is not enough. -/
theorem test_measReady :
    recordOf (exec .measReady (hearing [.ok [], .ok [0x00, 0x01, 0xB0]])) =
        [.write 0x61 rdyCmd .ok, .pause 3, .read 0x61 3 (.ok [0x00, 0x01, 0xB0]), .resp .ok [0x01]] ∧
      recordOf (exec .measReady (hearing [.ok [], .ok [0x80, 0x01, 0x93]])) =
        [.write 0x61 rdyCmd .ok, .pause 3, .read 0x61 3 (.ok [0x80, 0x01, 0x93]), .resp .ok [0x00]] := by decide

/-- T2, T6. -/
theorem test_startCont :
    recordOf (exec (.startCont 1013) (hearing [.ok []])) =
        [.write 0x61 [0x00, 0x10, 0x03, 0xF5, 0xDB] .ok, .resp .ok []] ∧
      recordOf (exec (.startCont 0) (hearing [.err [0xC3]])) =
        [.write 0x61 [0x00, 0x10, 0x00, 0x00, 0x81] (.err [0xC3]), .resp .transportFailure [0xC3]] := by decide

/-- G1. -/
theorem test_getMeas :
    recordOf (exec .getMeas (hearing [.ok [], .ok sampleM])) =
      [.write 0x61 measCmd .ok, .pause 3, .read 0x61 18 (.ok sampleM),
        .resp .ok [0x43, 0xC8, 0x00, 0x00, 0x41, 0xAC, 0x00, 0x00, 0x42, 0x34, 0x00, 0x00]] := by decide

/-- G7: the last group alone is wrong. -/
theorem test_getMeas_last_group :
    recordOf (exec .getMeas (hearing [.ok [], .ok (sampleM.set 17 0x80)])) =
      [.write 0x61 measCmd .ok, .pause 3, .read 0x61 18 (.ok (sampleM.set 17 0x80)),
        .resp .checksumMismatch []] := by decide

/-- A write that has not returned, then a read that has not: the command is written once (R56, R61). -/
theorem test_pending_is_resumed :
    recordOf (Host.Core.run Sys2Proof.core 4
        { presented [0x10] with answers := [.pending, .ok [], .pending, .ok [0x03, 0x47, 0x06]] }) =
      [.write 0x61 fwCmd .ok, .pause 3, .read 0x61 3 (.ok [0x03, 0x47, 0x06]), .resp .ok [0x03, 0x47]] := by decide

/-- D12, D7. -/
theorem test_encodeF32 :
    encodeF32 0x12345678 = [0x12, 0x34, 0x37, 0x56, 0x78, 0x7D] ∧
      decodeF32 [0x45, 0x1C, 0x41, 0x40, 0x00, 0x08] = 0x451C4000 := by decide

/-- The wire commands, from phase READ. -/
theorem test_wire_readFirmwareVersion :
    nextHas (fun s => decide (s.events.getLast? = some (.resp .ok [0x03, 0x47]) ∧ s.portState = .idle))
      (exec .readFirmwareVersion (reading fwCmd [.ok [0x03, 0x47, 0x06]])) = true := by decide
theorem test_wire_pollReady :
    nextHas (fun s => decide (s.events.getLast? = some (.resp .ok [0x00]) ∧ s.phase = .none))
      (exec .pollReady (reading rdyCmd [.ok [0x01, 0x00, 0x75]])) = true := by decide
theorem test_wire_readMeasurement :
    nextHas (fun s => decide (s.events.length = 2 ∧ s.portState = .busy ∧ s.phase = .read))
      (exec .readMeasurement (reading measCmd [.pending])) = true := by decide
theorem test_wire_startContinuousMeasurement :
    recordOf (exec (.startContinuousMeasurement 2000 0x2B) (writing [] [.ok []])) =
      [.write 0x61 [0x00, 0x10, 0x07, 0xD0, 0x2B] .ok, .resp .ok []] := by decide

/-! ## The history -/

/-- Q3: a push into a full ring of two. -/
theorem test_histPush_evicts :
    nextHas (fun s => decide (s.history = [m2, ⟨7, 8, 9⟩] ∧ s.histHead = 0 ∧ s.histCount = 2))
      (exec (.histPush 7 8 9) full) = true := by decide

/-- Q1 for N = 2: the first push. -/
theorem test_histPush_appends :
    nextHas (fun s => decide (s.histSlot = [(0, m1)] ∧ s.histHead = 0 ∧ s.histCount = 1))
      (exec (.histPush 1 2 3) idle) = true := by decide

theorem test_histLen : recordOf (exec .histLen full) = [.resp .ok [0x00, 0x02]] := by decide
/-- Q8. -/
theorem test_histFull :
    recordOf (exec .histFull full) = [.resp .ok [0x01]] ∧ recordOf (exec .histFull idle) = [.resp .ok [0x00]] := by
  decide
/-- Q3: the oldest is in slot 1. -/
theorem test_histRead_oldest :
    recordOf (exec (.histRead 0) full) = [.resp .ok [0, 0, 0, 1, 0, 0, 0, 2, 0, 0, 0, 3]] := by decide
theorem test_histRead_out_of_range : recordOf (exec (.histRead 2) full) = [.resp .indexRange []] := by decide
/-- Q6. -/
theorem test_histCap :
    recordOf (exec .histCap { idle with cfg := { smallCfg with histCap := 256 } }) = [.resp .ok [0x01, 0x00]] := by
  decide

/-! ## The scheduler -/

/-- K7: count 9 is Quick, and then 10. -/
theorem test_schedStep :
    nextHas (fun s => decide (s.events = [.resp .ok [0x01]] ∧ s.updateCount = 10 ∧ s.mode = .quick))
      (exec .schedStep { idle with updateCount := 9 }) = true := by decide
/-- K8: the wrap. -/
theorem test_schedStep_wraps :
    nextHas (fun s => decide (s.events = [.resp .ok [0x01]] ∧ s.updateCount = 0))
      (exec .schedStep { idle with updateCount := 0xFFFFFFFF, mode := .quick }) = true := by decide
/-- K2: after one step the count is 1 and the stored mode is Full. -/
theorem test_schedRead_after_step :
    recordOf (exec .schedRead { idle with updateCount := 1 }) = [.resp .ok [0, 0, 0, 1, 0]] := by decide

/-! ## The machine -/

/-- X2: a malformed frame gets its status and the index moves on. -/
theorem test_step_illegal_opcode :
    nextHas (fun s => decide (s.events = [.resp .illegalOpcode []] ∧ s.pc = 1 ∧ s.portState = .idle))
      (step (presented [0x40])) = true := by decide

/-- R221: a reset while Busy ends the request with no response. -/
theorem test_step_reset_while_busy :
    nextHas (fun s => decide (s.events.length = 2 ∧ s.portState = .idle ∧ s.phase = .none ∧ s.cfg = smallCfg))
      (step { reading fwCmd [] with resetIn := true }) = true := by decide

/-- R221: a reset in PAUSE, in READ and in CHECK leaves W, then W and P, then W, P and R, and never a response. -/
theorem test_step_reset_inside :
    [ResetPoint.afterWrite, .afterPause, .afterRead].map
        (fun p => recordOf (step { presented [0x10] with
          resetAt := some p, answers := [.ok [], .ok [0x03, 0x47, 0x06]] })) =
      [[.write 0x61 fwCmd .ok], [.write 0x61 fwCmd .ok, .pause 3],
        [.write 0x61 fwCmd .ok, .pause 3, .read 0x61 3 (.ok [0x03, 0x47, 0x06])]] := by decide

/-- With nothing presented, nothing happens. -/
theorem test_step_nothing_presented : nextHas (fun s => decide (s = idle)) (step idle) = true := by decide

/-- R223: a capacity of zero is never run. -/
theorem test_illegal_configuration :
    goesOn (step { idle with cfg := { smallCfg with histCap := 0 } }) = false := by decide

/-- The open configuration is legal. -/
theorem test_reset_configuration_legal : State.reset.cfg.legal = true := by decide

/-! ## Witnesses: the hypotheses of each statement can be met -/

theorem test_witness_StepRunsHostRequest :
    smallCfg.legal = true ∧ (presented [0x21]).resetIn = false ∧ (presented [0x21]).portState = .idle ∧
      (presented [0x21]).program[(presented [0x21]).pc]? = some [0x21] ∧ decode .host [0x21] = .ok .histLen := by
  exact ⟨by decide, rfl, rfl, rfl, rfl⟩

theorem test_witness_StepRunsWireCommand :
    (reading fwCmd []).cfg.legal = true ∧ (reading fwCmd []).resetIn = false ∧ (reading fwCmd []).portState = .busy ∧
      (reading fwCmd []).phase ≠ .none ∧ decode .wire (reading fwCmd []).cmd = .ok .readFirmwareVersion := by
  exact ⟨by decide, rfl, rfl, by decide, rfl⟩

/-- Each clause: empty; 0x32, the first past the map; 0x31 one byte too long; CRC8 without and with a wrong count; a
right length; CRC8 of no data. -/
theorem test_witness_FrameDecodeOrder :
    ∀ f ∈ ([[], [0x32], [0x31, 0x00], [0x01], [0x01, 0x00, 0xAA], [0x31], [0x01, 0x00]] : List Bytes),
      (presented f).cfg.legal = true ∧ (presented f).resetIn = false ∧ (presented f).portState = .idle ∧
        (presented f).program[(presented f).pc]? = some f := by decide

theorem test_witness_IllegalOpcodesExactly :
    ∀ o ∈ ([0x00, 0x03, 0x0F, 0x14, 0x1F, 0x25, 0x2F, 0x32, 0xFF] : List Byte),
      (presented [o]).cfg.legal = true ∧ (presented [o]).program[(presented [o]).pc]? = some [o] := by decide

theorem test_witness_PlacedTableWordRuns :
    idle.cfg.legal = true ∧ decodeTableWord 16 0xD100 = some .readFirmwareVersion ∧
      decodeTableWord 8 0x30 = some .schedStep := by decide

theorem test_witness_DecodeOfEncode :
    (Instr.crc8 (List.replicate 255 0xFF)).wellFormed = true ∧
      (Instr.startContinuousMeasurement 0xFFFF 0xAC).wellFormed = true := by decide

theorem test_witness_EncodeOfDecode :
    decode .host [0x01, 0x00] = .ok (.crc8 []) ∧ decode .wire [0x02, 0x02] = .ok .pollReady := by exact ⟨rfl, rfl⟩

theorem test_witness_Crc8Request :
    idle.cfg.legal = true ∧ idle.portState = .idle ∧ ([0x03, 0x47] : Bytes).length = (0x02 : Byte).toNat ∧
      ([] : Bytes).length ≠ (0x01 : Byte).toNat := by decide

theorem test_witness_CrcCheckRequest :
    idle.cfg.legal = true ∧ idle.portState = .idle ∧ wordValid 0x00 0x00 0x81 = true ∧ 15 < 16 := by decide

/-- FW_VERSION: a failed write, a failed read, a wrong and a right checksum. -/
theorem test_witness_FwVersionRequest :
    (∀ known, (hearing known).resetAt = none) ∧
      (hearing [.err [0xC1]]).cfg.legal = true ∧ (hearing [.err [0xC1]]).portState = .idle ∧
      (hearing [.err [0xC1]]).answerTo (.write 0x61 fwCmd) = .err [0xC1] ∧
      (hearing [.ok [], .err [0xC2]]).answerTo (.write 0x61 fwCmd) = .ok [] ∧
      (wroteAndPaused (hearing [.ok [], .err [0xC2]]) fwCmd).answerTo (.read 0x61 3) = .err [0xC2] ∧
      (wroteAndPaused (hearing [.ok [], .ok [0x03, 0x47, 0x07]]) fwCmd).answerTo (.read 0x61 3) =
        .ok [0x03, 0x47, 0x07] ∧
      exactly 3 [0x03, 0x47, 0x07] = [0x03, 0x47, 0x07] ∧ crc8 [0x03, 0x47] ≠ 0x07 ∧ crc8 [0x03, 0x47] = 0x06 :=
  ⟨fun _ => rfl, by decide⟩

/-- MEAS_READY: the same four, with the words 1, 0 and 0x0100. -/
theorem test_witness_MeasReadyRequest :
    (∀ known, (hearing known).resetAt = none) ∧
      (hearing [.err [0xC1]]).answerTo (.write 0x61 rdyCmd) = .err [0xC1] ∧
      (hearing [.ok [], .err [0xC2]]).answerTo (.write 0x61 rdyCmd) = .ok [] ∧
      (wroteAndPaused (hearing [.ok [], .err [0xC2]]) rdyCmd).answerTo (.read 0x61 3) = .err [0xC2] ∧
      (wroteAndPaused (hearing [.ok [], .ok [0x00, 0x01, 0xB0]]) rdyCmd).answerTo (.read 0x61 3) =
        .ok [0x00, 0x01, 0xB0] ∧
      crc8 [0x00, 0x01] = 0xB0 ∧ crc8 [0x00, 0x01] ≠ 0xB1 ∧ crc8 [0x00, 0x00] = 0x81 ∧ crc8 [0x01, 0x00] = 0x75 :=
  ⟨fun _ => rfl, by decide⟩

theorem test_witness_StartContRequest :
    (∀ known, (hearing known).resetAt = none) ∧
      (hearing [.err [0xC3]]).answerTo (.write 0x61 [0x00, 0x10, 0xFF, 0xFF, 0xAC]) = .err [0xC3] ∧
      (hearing [.ok []]).answerTo (.write 0x61 [0x00, 0x10, 0x00, 0x00, 0x81]) = .ok [] ∧
      idle.cfg.legal = true ∧ idle.portState = .idle :=
  ⟨fun _ => rfl, by decide⟩

/-- GET_MEAS: group 5, the last, invalid alone; and all six valid. -/
theorem test_witness_GetMeasRequest :
    (∀ known, (hearing known).resetAt = none) ∧
      (hearing [.err [0xC1]]).answerTo (.write 0x61 measCmd) = .err [0xC1] ∧
      (wroteAndPaused (hearing [.ok [], .err [0xC2]]) measCmd).answerTo (.read 0x61 18) = .err [0xC2] ∧
      (wroteAndPaused (hearing [.ok [], .ok sampleM]) measCmd).answerTo (.read 0x61 18) = .ok sampleM ∧
      exactly 18 sampleM = sampleM ∧ groupsValid sampleM = true ∧
      crc8 [sampleM.getD 15 0, sampleM.getD 16 0] = sampleM.getD 17 0 ∧
      crc8 [(sampleM.set 17 0x80).getD 15 0, (sampleM.set 17 0x80).getD 16 0] ≠ (sampleM.set 17 0x80).getD 17 0 :=
  ⟨fun _ => rfl, by decide⟩

/-- read-firmware-version: from no phase, from WRITE and from READ. -/
theorem test_witness_ReadFirmwareVersionCommand :
    (∀ cmd known, (writing cmd known).resetAt = none ∧ (reading cmd known).resetAt = none) ∧
      exactly 3 [0x03, 0x47, 0x06] = [0x03, 0x47, 0x06] ∧ crc8 [0x03, 0x47] = 0x06 ∧
      (hearing [.ok [], .ok [0x03, 0x47, 0x06]]).phase = .none ∧ (writing fwCmd [.ok []]).phase = .write ∧
      (writing fwCmd [.ok []]).answerTo (.write 0x61 fwCmd) = .ok [] ∧
      (wroteAndPaused (writing fwCmd [.ok [], .ok [0x03, 0x47, 0x06]]) fwCmd).answerTo (.read 0x61 3) =
        .ok [0x03, 0x47, 0x06] ∧
      (reading fwCmd [.ok [0x03, 0x47, 0x06]]).phase = .read ∧
      (reading fwCmd [.ok [0x03, 0x47, 0x06]]).answerTo (.read 0x61 3) = .ok [0x03, 0x47, 0x06] :=
  ⟨fun _ _ => ⟨rfl, rfl⟩, by decide⟩

theorem test_witness_PollReadyCommand :
    (∀ cmd known, (writing cmd known).resetAt = none ∧ (reading cmd known).resetAt = none) ∧
      exactly 3 [0x00, 0x01, 0xB0] = [0x00, 0x01, 0xB0] ∧ crc8 [0x00, 0x01] = 0xB0 ∧
      (writing rdyCmd [.ok []]).answerTo (.write 0x61 rdyCmd) = .ok [] ∧
      (wroteAndPaused (writing rdyCmd [.ok [], .ok [0x00, 0x01, 0xB0]]) rdyCmd).answerTo (.read 0x61 3) =
        .ok [0x00, 0x01, 0xB0] ∧
      (reading rdyCmd [.ok [0x00, 0x01, 0xB0]]).answerTo (.read 0x61 3) = .ok [0x00, 0x01, 0xB0] :=
  ⟨fun _ _ => ⟨rfl, rfl⟩, by decide⟩

theorem test_witness_ReadMeasurementCommand :
    (∀ cmd known, (writing cmd known).resetAt = none ∧ (reading cmd known).resetAt = none) ∧
      exactly 18 sampleM = encodeF32 0x43C80000 ++ (encodeF32 0x41AC0000 ++ encodeF32 0x42340000) ∧
      (writing measCmd [.ok []]).answerTo (.write 0x61 measCmd) = .ok [] ∧
      (wroteAndPaused (writing measCmd [.ok [], .ok sampleM]) measCmd).answerTo (.read 0x61 18) = .ok sampleM ∧
      (reading measCmd [.ok sampleM]).answerTo (.read 0x61 18) = .ok sampleM :=
  ⟨fun _ _ => ⟨rfl, rfl⟩, by decide⟩

theorem test_witness_StartContinuousMeasurementCommand :
    (∀ cmd known, (writing cmd known).resetAt = none ∧ (reading cmd known).resetAt = none) ∧
      (writing [] [.ok []]).cfg.legal = true ∧
      (writing [] [.ok []]).answerTo (.write 0x61 [0x00, 0x10, 0x07, 0xD0, 0x2B]) = .ok [] ∧
      (writing [] [.err [0xC3]]).answerTo (.write 0x61 [0x00, 0x10, 0x07, 0xD0, 0x2B]) = .err [0xC3] :=
  ⟨fun _ _ => ⟨rfl, rfl⟩, by decide⟩

theorem test_witness_WireCommandFailures :
    (∀ cmd known, (writing cmd known).resetAt = none ∧ (reading cmd known).resetAt = none) ∧
      (writing fwCmd [.err [0xC1]]).phase = .write ∧
      (writing fwCmd [.err [0xC1]]).answerTo (.write 0x61 fwCmd) = .err [0xC1] ∧
      (reading fwCmd [.err [0xC2]]).phase = .read ∧
      (reading fwCmd [.err [0xC2]]).answerTo (.read 0x61 3) = .err [0xC2] ∧
      (reading rdyCmd [.ok [0x00, 0x01, 0xB1]]).answerTo (.read 0x61 3) = .ok [0x00, 0x01, 0xB1] ∧
      crc8 [0x00, 0x01] ≠ 0xB1 :=
  ⟨fun _ _ => ⟨rfl, rfl⟩, by decide⟩

theorem test_witness_PendingPrimitiveWaits :
    (∀ known, (hearing known).resetAt = none) ∧
      (hearing [.pending]).cfg.legal = true ∧ (hearing [.pending]).portState = .idle ∧
      (hearing [.pending]).answerTo (.write 0x61 fwCmd) = .pending ∧
      (hearing [.ok [], .pending]).answerTo (.write 0x61 measCmd) = .ok [] ∧
      (wroteAndPaused (hearing [.ok [], .pending]) measCmd).answerTo (.read 0x61 18) = .pending :=
  ⟨fun _ => rfl, by decide⟩

theorem test_witness_StuckWhilePending :
    (reading fwCmd (List.replicate 3 .pending)).cfg.legal = true ∧
      (reading fwCmd (List.replicate 3 .pending)).resetIn = false ∧
      (reading fwCmd (List.replicate 3 .pending)).portState = .busy ∧
      (reading fwCmd (List.replicate 3 .pending)).phase = .read ∧
      (reading fwCmd (List.replicate 3 .pending)).answers = List.replicate 3 .pending ∧
      decode .wire fwCmd = .ok .readFirmwareVersion := by
  exact ⟨by decide, rfl, rfl, rfl, rfl, rfl⟩

theorem test_witness_BusyPortHoldsRequests :
    (reading fwCmd []).cfg.legal = true ∧ (reading fwCmd []).portState = .busy ∧ Instr.histLen.port = .host := by
  decide

theorem test_witness_BusyStepIgnoresHostFrames :
    (reading fwCmd [.ok [0x03, 0x47, 0x06]]).portState = .busy ∧
      (reading fwCmd [.ok [0x03, 0x47, 0x06]]).resetIn = false ∧
      ∃ t, step (reading fwCmd [.ok [0x03, 0x47, 0x06]]) = .next t := by
  exact ⟨rfl, rfl, _, rfl⟩

/-- Room for one more, and full. -/
theorem test_witness_HistPushRequest :
    idle.cfg.legal = true ∧ idle.portState = .idle ∧ idle.histCount.toNat < idle.cfg.histCap.toNat ∧
      full.cfg.histCap.toNat ≤ full.histCount.toNat := by decide

theorem test_witness_HistPushSequence :
    full.cfg.legal = true ∧ full.portState = .idle ∧ historyOk full = true ∧ historyOk idle = true := by decide

theorem test_witness_HistPushesFromReset : smallCfg.legal = true := by decide

/-- The newest position and the first past it, which is the first past the capacity too. -/
theorem test_witness_HistReadRequest :
    full.cfg.legal = true ∧ full.portState = .idle ∧ (1 : Word16).toNat < full.histCount.toNat ∧
      full.histCount.toNat ≤ (2 : Word16).toNat ∧ historyOk full = true ∧
      full.cfg.histCap.toNat ≤ (2 : Word16).toNat := by decide

theorem test_witness_HistIterationReadsSequence :
    full.cfg.legal = true ∧ full.portState = .idle ∧ historyOk full = true ∧ full.history = [m1, m2] := by decide

theorem test_witness_HistLenRequest :
    full.cfg.legal = true ∧ full.portState = .idle ∧ historyOk full = true ∧ full.isFull = true := by decide

theorem test_witness_HistFullRequest :
    full.cfg.legal = true ∧ full.portState = .idle ∧ full.histCount = full.cfg.histCap ∧
      idle.histCount ≠ idle.cfg.histCap := by decide

theorem test_witness_HistCapRequest :
    (presented [0x24]).cfg.legal = true ∧ (presented [0x24]).portState = .idle ∧
      ∃ t, step (presented [0x24]) = .next t := by exact ⟨by decide, rfl, _, rfl⟩

theorem test_witness_HistoryChangesOnlyByPush :
    (presented [0x21]).resetIn = false ∧ ∃ t, step (presented [0x21]) = .next t := by exact ⟨rfl, _, rfl⟩

theorem test_witness_RingPlacementHidden :
    historyOk full = true ∧ historyOk full' = true ∧ sameView full full' ∧ ∃ t, step full = .next t := by
  refine ⟨by decide, by decide, ⟨?_, ?_⟩, _, rfl⟩
  · decide
  · decide

/-- Counts 10 and 11 with K = 10. -/
theorem test_witness_SchedStepRequest :
    idle.cfg.legal = true ∧ idle.portState = .idle ∧ (10 : Word32).toNat % idle.cfg.refreshK.toNat = 0 ∧
      (11 : Word32).toNat % idle.cfg.refreshK.toNat ≠ 0 := by decide

theorem test_witness_SchedReadRequest : idle.cfg.legal = true ∧ idle.portState = .idle := by decide

theorem test_witness_SchedulerCadenceFromReset : smallCfg.legal = true := by decide

theorem test_witness_CounterMovesOnlyBySchedStep :
    (presented [0x30]).resetIn = false ∧ (∃ t, step (presented [0x30]) = .next t) ∧
      (presented [0x30]).program[(presented [0x30]).pc]? = some [0x30] ∧
      (∃ t, step (presented [0x31]) = .next t) ∧
      (presented [0x31]).program[(presented [0x31]).pc]? ≠ some [0x30] := by
  exact ⟨rfl, ⟨_, rfl⟩, rfl, ⟨_, rfl⟩, by decide⟩

theorem test_witness_StoredModeOfPreviousCount :
    schedulerOk (presented [0x30]) = true ∧ ∃ t, step (presented [0x30]) = .next t := by exact ⟨by decide, _, rfl⟩

theorem test_witness_ResetValues :
    ({ reading fwCmd [] with resetIn := true } : State).cfg.legal = true ∧
      ∃ t, step { reading fwCmd [] with resetIn := true } = .next t := by exact ⟨by decide, _, rfl⟩

/-- Reset while a read is pending (R221): the frame's index stays and no response is recorded. -/
theorem test_witness_ResetAbandonsRequest :
    ({ reading fwCmd [] with resetIn := true } : State).cfg.legal = true ∧
      ({ reading fwCmd [] with resetIn := true } : State).portState = .busy ∧
      step { reading fwCmd [] with resetIn := true } = .next (reading fwCmd []).takeReset := by
  exact ⟨by decide, rfl, rfl⟩

/-- From a fresh request at each instant, with failed primitives, and from a read that is asked again. -/
theorem test_witness_ResetInsideTransaction :
    (∀ p ∈ [ResetPoint.afterWrite, .afterPause, .afterRead],
      ({ hearing [.ok [], .ok sampleM] with resetAt := some p } : State).cfg.legal = true ∧
        ({ hearing [.ok [], .ok sampleM] with resetAt := some p } : State).portState = .idle ∧
        ({ hearing [.ok [], .ok sampleM] with resetAt := some p } : State).answerTo (.write 0x61 measCmd) = .ok [] ∧
        (wroteAndPaused { hearing [.ok [], .ok sampleM] with resetAt := some p } measCmd).answerTo (.read 0x61 18) =
          .ok sampleM) ∧
      ({ hearing [.err [0xC1]] with resetAt := some .afterWrite } : State).answerTo (.write 0x61 measCmd) =
        .err [0xC1] ∧
      (wroteAndPaused { hearing [.ok [], .err [0xC2]] with resetAt := some .afterRead } measCmd).answerTo
        (.read 0x61 18) = .err [0xC2] ∧
      ({ reading measCmd [.ok sampleM] with resetAt := some .afterRead } : State).phase = .read ∧
      ({ reading measCmd [.ok sampleM] with resetAt := some .afterRead } : State).answerTo (.read 0x61 18) =
        .ok sampleM ∧
      ({ reading measCmd [.err [0xC2]] with resetAt := some .afterRead } : State).answerTo (.read 0x61 18) =
        .err [0xC2] := by decide

theorem test_witness_ResetInsideWriteOnly :
    ({ hearing [.ok []] with resetAt := some .afterWrite } : State).cfg.legal = true ∧
      ({ hearing [.ok []] with resetAt := some .afterWrite } : State).portState = .idle ∧
      crc8 [0x03, 0xF5] = 0xDB ∧
      ({ hearing [.ok []] with resetAt := some .afterWrite } : State).answerTo
        (.write 0x61 [0x00, 0x10, 0x03, 0xF5, 0xDB]) = .ok [] ∧
      ({ hearing [.err [0xC3]] with resetAt := some .afterWrite } : State).answerTo
        (.write 0x61 [0x00, 0x10, 0x03, 0xF5, 0xDB]) = .err [0xC3] := by decide

theorem test_witness_ConfigurationNeverChanges : ∃ t, step (presented [0x30]) = .next t := ⟨_, rfl⟩

theorem test_witness_IllegalConfigurationRefused :
    ({ smallCfg with histCap := 0 } : Config).legal = false ∧ ({ smallCfg with refreshK := 0 } : Config).legal = false ∧
      ({ smallCfg with tPause := 0 } : Config).legal = false ∧ smallCfg.legal = true := by decide

theorem test_witness_ErrorsArePrecise :
    (presented [0x40]).resetIn = false ∧ ∃ t, step (presented [0x40]) = .next t ∧
      t.events = (presented [0x40]).events ++ [.resp .illegalOpcode []] ∧ Status.illegalOpcode ≠ .ok := by
  exact ⟨rfl, _, rfl, rfl, by decide⟩

theorem test_witness_OneResponsePerRequest : ∃ t, step (presented [0x21]) = .next t := ⟨_, rfl⟩

theorem test_witness_ProtocolWritesNoBlockState :
    (∃ t, exec .fwVersion (hearing [.err [0xC1]]) = .next t) ∧
      ∃ t, exec (.startContinuousMeasurement 0 0x81) (hearing [.ok []]) = .next t := by exact ⟨⟨_, rfl⟩, _, rfl⟩

theorem test_witness_OtherUnitsUseNoBus :
    idle.cfg.legal = true ∧ idle.portState = .idle ∧ Instr.histCap.port = .host ∧
      Instr.histCap ∉ ([.fwVersion, .measReady, .getMeas] : List Instr) ∧ ∀ p, Instr.histCap ≠ .startCont p := by
  exact ⟨by decide, rfl, rfl, by decide, fun _ h => by cases h⟩

theorem test_witness_ResetHasInvariant : smallCfg.legal = true := by decide

theorem test_witness_StepKeepsInvariant :
    Inv full = true ∧ Inv (reading fwCmd []) = true ∧ Inv (writing measCmd []) = true := by decide

theorem test_witness_ReachableNeverStops : Reachable idle := .start smallCfg (by decide)

/-- The next state of an outcome. -/
def after : Host.Outcome State Fault Refusal → State
  | .next s => s
  | .fault _ => idle
  | .refused _ => idle

theorem goesOn_after {o : Host.Outcome State Fault Refusal} (h : goesOn o = true) : o = .next (after o) := by
  cases o with
  | next s => rfl
  | fault r => cases h
  | refused r => cases h

/-- FW_VERSION presented, and the oracle's answers known. -/
def asking : State :=
  { idle with program := idle.program ++ [[0x10]], answers := idle.answers ++ [.ok [], .ok [0x03, 0x47, 0x06]] }

/-- That state is reachable. -/
theorem reachable_asking : Reachable asking :=
  .answersKnown (s := { idle with program := idle.program ++ [[0x10]] }) _
    (.present (s := idle) _ (.start smallCfg (by decide)))

theorem asking_goes_on : goesOn (step asking) = true := by decide

/-- A reachable record with a read in it: FW_VERSION answered. -/
theorem test_witness_BusCarriesOnlyWireCommands :
    Reachable (after (step asking)) ∧
      (after (step asking)).events = [.write 0x61 fwCmd .ok, .pause 3] ++
        .read 0x61 3 (.ok [0x03, 0x47, 0x06]) :: [.resp .ok [0x03, 0x47]] :=
  ⟨.step reachable_asking (goesOn_after asking_goes_on), by decide⟩

theorem test_witness_ReadsFollowWriteAndPause :
    Reachable (after (step asking)) ∧
      (after (step asking)).events = [.write 0x61 fwCmd .ok, .pause 3] ++
        .read 0x61 3 (.ok [0x03, 0x47, 0x06]) :: [.resp .ok [0x03, 0x47]] :=
  test_witness_BusCarriesOnlyWireCommands

end Sys2Proof.Tests
end

section
/-! SUPPORT and PROOF. No step changes the configuration (00_scope.md R6, R9). `KeepsCfg` is carried from the bus
primitives to the transactions, the instructions and the step. -/

namespace Sys2Proof.Machine

/-! ## The configuration of the states of a response and of a bus access -/

@[simp] theorem answeredWith_cfg (s : State) (st : Status) (fields : Bytes) : (answeredWith s st fields).cfg = s.cfg :=
  rfl
@[simp] theorem drawn_cfg (s : State) (e : Event) : (drawn s e).cfg = s.cfg := rfl
@[simp] theorem wroteAndPaused_cfg (s : State) (cmd : Bytes) : (wroteAndPaused s cmd).cfg = s.cfg := rfl
@[simp] theorem waiting_cfg (s : State) (ph : Phase) (cmd : Bytes) : (waiting s ph cmd).cfg = s.cfg := rfl
@[simp] theorem abandoned_cfg (s : State) : (abandoned s).cfg = s.cfg := rfl

/-! ## The shared operations -/

/-- A state change that leaves the configuration as it is. -/
def KeepsCfg (run : State → State) : Prop := ∀ s, (run s).cfg = s.cfg

theorem orReset_keepsCfg {p : ResetPoint} {next : State → State} (hn : KeepsCfg next) : KeepsCfg (orReset p next) := by
  intro s
  rw [orReset_eq]
  split
  · exact abandoned_cfg s
  · exact hn s

theorem busWrite_keepsCfg {cmd : Bytes} {next : State → State} (hn : KeepsCfg next) :
    KeepsCfg (busWrite cmd next) := by
  intro s
  rw [busWrite_eq]
  cases s.answerTo (.write s.cfg.devAddr cmd) with
  | ok b =>
    dsimp only
    split
    · simp
    · simp [hn _]
  | err c => dsimp only; split <;> simp
  | pending => simp

theorem busRead_keepsCfg {n : Nat} {next : State → State} (hn : KeepsCfg next) : KeepsCfg (busRead n next) := by
  intro s
  rw [busRead_eq]
  cases s.answerTo (.read s.cfg.devAddr n) with
  | ok b =>
    dsimp only
    split
    · simp
    · simp [hn _]
  | err c => dsimp only; split <;> simp
  | pending => simp

theorem checkPhase_keepsCfg (fields : List Word16 → Bytes) : KeepsCfg (checkPhase fields) := by
  intro s
  unfold checkPhase
  split <;> simp

theorem readPhase_keepsCfg (n : Nat) (fields : List Word16 → Bytes) : KeepsCfg (readPhase n fields) :=
  busRead_keepsCfg (checkPhase_keepsCfg fields)

theorem pausePhase_keepsCfg (n : Nat) (fields : List Word16 → Bytes) : KeepsCfg (pausePhase n fields) := fun s =>
  (orReset_keepsCfg (readPhase_keepsCfg n fields) s.doPause).trans (State.doPause_cfg s)

theorem transact_keepsCfg (cmd : Bytes) (n : Nat) (fields : List Word16 → Bytes) : KeepsCfg (transact cmd n fields) :=
  busWrite_keepsCfg (pausePhase_keepsCfg n fields)

theorem resume_keepsCfg (cmd : Bytes) (n : Nat) (fields : List Word16 → Bytes) : KeepsCfg (resume cmd n fields) := by
  intro s
  unfold resume
  cases s.phase with
  | none => exact transact_keepsCfg cmd n fields s
  | write => exact transact_keepsCfg cmd n fields s
  | pause => exact pausePhase_keepsCfg n fields s
  | read => exact readPhase_keepsCfg n fields s
  | check => exact checkPhase_keepsCfg fields s

theorem writeOnly_keepsCfg (cmd : Bytes) : KeepsCfg (writeOnly cmd) :=
  busWrite_keepsCfg fun s => State.respond_cfg s .ok []

/-! ## The instructions and the step -/

/-- A host request that keeps the configuration keeps it through acceptance, and so does a held one (R74). -/
theorem serve_cfg {s t : State} {run : State → State} (hrun : KeepsCfg run) (h : serve s run = .next t) :
    t.cfg = s.cfg := by
  obtain ⟨-, ⟨-, rfl⟩ | ⟨-, rfl⟩⟩ := serve_next h
  · exact (hrun s.accept).trans (State.accept_cfg s)
  · rfl

theorem serveWire_cfg {s t : State} {run : State → State} (hrun : KeepsCfg run) (h : serveWire s run = .next t) :
    t.cfg = s.cfg := by
  obtain ⟨-, rfl⟩ := serveWire_next h
  exact hrun s

/-- HIST_READ ends in one of two responses (R166, R205). -/
theorem execHistRead_cfg {k : Word16} {s t : State} (h : execHistRead k s = .next t) : t.cfg = s.cfg := by
  refine serve_cfg (fun s => ?_) h
  split <;> simp

/-- No instruction changes the configuration (R6, R9). -/
theorem exec_cfg {i : Instr} {s t : State} (h : exec i s = .next t) : t.cfg = s.cfg := by
  cases i with
  | crc8 d => exact serve_cfg (fun s => State.respond_cfg s _ _) h
  | crcCheck b0 b1 c => exact serve_cfg (fun s => State.respond_cfg s _ _) h
  | fwVersion => exact serve_cfg (transact_keepsCfg _ _ _) h
  | measReady => exact serve_cfg (transact_keepsCfg _ _ _) h
  | startCont p => exact serve_cfg (writeOnly_keepsCfg _) h
  | getMeas => exact serve_cfg (transact_keepsCfg _ _ _) h
  | histPush co2 temp hum => exact serve_cfg (fun s => (State.respond_cfg _ _ _).trans (State.pushEntry_cfg s _)) h
  | histLen => exact serve_cfg (fun s => State.respond_cfg s _ _) h
  | histFull => exact serve_cfg (fun s => State.respond_cfg s _ _) h
  | histRead k => exact execHistRead_cfg h
  | histCap => exact serve_cfg (fun s => State.respond_cfg s _ _) h
  | schedStep => exact serve_cfg (fun s => (State.respond_cfg _ _ _).trans (State.stepScheduler_cfg s)) h
  | schedRead => exact serve_cfg (fun s => State.respond_cfg s _ _) h
  | readFirmwareVersion => exact serveWire_cfg (resume_keepsCfg _ _ _) h
  | pollReady => exact serveWire_cfg (resume_keepsCfg _ _ _) h
  | readMeasurement => exact serveWire_cfg (resume_keepsCfg _ _ _) h
  | startContinuousMeasurement p c => exact serveWire_cfg (writeOnly_keepsCfg _) h

/-- Rejecting bytes only answers a status (R75). -/
theorem rejectBytes_cfg {e : DecodeError} {s t : State} (h : rejectBytes e s = .next t) : t.cfg = s.cfg := by
  obtain ⟨-, rfl⟩ | ⟨-, rfl⟩ := rejectBytes_next h
  · exact answeredWith_cfg s .badLength []
  · exact answeredWith_cfg s .illegalOpcode []

/-- Settles O46: whatever a step does, whether it takes the reset input, finds nothing to run, runs an instruction or
rejects bytes, it keeps the configuration. -/
theorem configurationNeverChanges : Obligations.ConfigurationNeverChanges := by
  intro s t h
  obtain ⟨-, ⟨-, rfl⟩ | ⟨-, ⟨-, rfl⟩ | ⟨p, b, -, ⟨i, -, hexec⟩ | ⟨e, -, hreject⟩⟩⟩⟩ := step_next h
  · exact State.takeReset_cfg s
  · rfl
  · exact exec_cfg hexec
  · exact rejectBytes_cfg hreject

end Sys2Proof.Machine
end

section
/-! SUPPORT. The inverse of the decoders (30_encoding.md R71, R75, R80, R85): what decodes is the encoding of what it
decodes to, and belongs to the level it was decoded at. -/

namespace Sys2Proof

open Machine

/-- A request without operands is its opcode alone. -/
theorem encode_of_decodeH0 {opc : Byte} {ops : Bytes} {i j : Instr} (hp : i.port = .host) (he : encode i = [opc])
    (h : decodeH0 i ops = .ok j) : j.port = .host ∧ encode j = opc :: ops := by
  obtain ⟨rfl, rfl⟩ := decodeH0_ok.1 h
  exact ⟨hp, he⟩

/-- A request with one 16-bit operand is its opcode and the operand's bytes. -/
theorem encode_of_decodeH16 {opc : Byte} {ops : Bytes} {i : Word16 → Instr} {j : Instr}
    (hp : ∀ w, (i w).port = .host) (he : ∀ w, encode (i w) = opc :: bytes16 w) (h : decodeH16 i ops = .ok j) :
    j.port = .host ∧ encode j = opc :: ops := by
  obtain ⟨hi, lo, rfl, rfl⟩ := decodeH16_ok.1 h
  exact ⟨hp _, by rw [he, bytes16_be16]⟩

/-- A host frame that decodes is the frame of the request it decodes to (R75, R85). -/
theorem encode_of_decodeHost {f : Bytes} {i : Instr} (h : decodeHost f = .ok i) : i.port = .host ∧ encode i = f := by
  cases f with
  | nil => cases h
  | cons opc ops =>
    rcases opcode_cases opc with hopc | hillegal
    · simp only [List.mem_cons, List.not_mem_nil, or_false] at hopc
      rcases hopc with rfl | rfl | rfl | rfl | rfl | rfl | rfl | rfl | rfl | rfl | rfl | rfl | rfl
      · obtain ⟨count, d, rfl, hlen, rfl⟩ := decodeHCRC_ok.1 h
        exact ⟨rfl, by simp [encode, hlen]⟩
      · obtain ⟨b0, b1, c, rfl, rfl⟩ := decodeHCHK_ok.1 h
        exact ⟨rfl, rfl⟩
      · exact encode_of_decodeH0 rfl rfl h
      · exact encode_of_decodeH0 rfl rfl h
      · exact encode_of_decodeH16 (fun _ => rfl) (fun _ => rfl) h
      · exact encode_of_decodeH0 rfl rfl h
      · obtain ⟨a0, a1, a2, a3, b0, b1, b2, b3, c0, c1, c2, c3, rfl, rfl⟩ := decodeHM_ok.1 h
        exact ⟨rfl, by simp [encode]⟩
      · exact encode_of_decodeH0 rfl rfl h
      · exact encode_of_decodeH0 rfl rfl h
      · exact encode_of_decodeH16 (fun _ => rfl) (fun _ => rfl) h
      · exact encode_of_decodeH0 rfl rfl h
      · exact encode_of_decodeH0 rfl rfl h
      · exact encode_of_decodeH0 rfl rfl h
    · rw [hillegal ops] at h
      cases h

/-- A wire command that decodes is the bytes of the command it decodes to (R80). -/
theorem encode_of_decodeWire {b : Bytes} {i : Instr} (h : decodeWire b = .ok i) : i.port = .wire ∧ encode i = b := by
  rcases decodeWire_ok.1 h with ⟨rfl, rfl⟩ | ⟨rfl, rfl⟩ | ⟨rfl, rfl⟩ | ⟨hi, lo, c, rfl, rfl⟩
  · exact ⟨rfl, rfl⟩
  · exact ⟨rfl, rfl⟩
  · exact ⟨rfl, rfl⟩
  · exact ⟨rfl, by simp [encode]⟩

/-- A frame is a push exactly by its opcode and its twelve operand bytes (R76, R160). -/
theorem frame_of_decode_histPush {f : Bytes} {co2 temp hum : Word32}
    (h : decodeHost f = .ok (.histPush co2 temp hum)) : ∃ ops : Bytes, ops.length = 12 ∧ f = 0x20#8 :: ops :=
  ⟨_, rfl, (encode_of_decodeHost h).2.symm⟩

/-- A host frame fails by its opcode or its length, never as a wire command would (R75, R83). -/
theorem decodeHost_error {f : Bytes} {e : DecodeError} (h : decodeHost f = .error e) :
    e = .badLength ∨ e = .illegalOpcode := by
  cases f with
  | nil => cases h; exact .inl rfl
  | cons opc ops =>
    rcases opcode_cases opc with hopc | hillegal
    · left
      simp only [List.mem_cons, List.not_mem_nil, or_false] at hopc
      rcases hopc with rfl | rfl | rfl | rfl | rfl | rfl | rfl | rfl | rfl | rfl | rfl | rfl | rfl
      · exact (decodeHCRC_error.1 h).2
      · exact (decodeHCHK_error.1 h).2
      · exact (decodeH0_error.1 h).2
      · exact (decodeH0_error.1 h).2
      · exact (decodeH16_error.1 h).2
      · exact (decodeH0_error.1 h).2
      · exact (decodeHM_error.1 h).2
      · exact (decodeH0_error.1 h).2
      · exact (decodeH0_error.1 h).2
      · exact (decodeH16_error.1 h).2
      · exact (decodeH0_error.1 h).2
      · exact (decodeH0_error.1 h).2
      · exact (decodeH0_error.1 h).2
    · rw [hillegal ops] at h
      cases h
      exact .inr rfl

end Sys2Proof
end

section
/-! SUPPORT and PROOF. What a step runs: where the bytes stand (10_state.md R27), and each instruction as one run under
`serve` or `serveWire` (30_encoding.md R74, R80). -/

namespace Sys2Proof.Machine

/-! ## The bytes a step finds -/

/-- While Idle a step finds the host's next frame (R27). -/
theorem fetch_idle {s : State} {f : Bytes} (hp : s.portState = .idle) (hf : s.program[s.pc]? = some f) :
    fetch s = .bytes .host f := by
  simp [fetch, hp, hf]

/-- Bytes that a step finds are the host's next frame while Idle, or the framer's command while Busy (R27, R74). -/
theorem fetch_bytes {s : State} {p : Port} {b : Bytes} (h : fetch s = .bytes p b) :
    s.portState = .idle ∧ p = .host ∧ s.program[s.pc]? = some b ∨ s.portState = .busy ∧ p = .wire ∧ b = s.cmd := by
  unfold fetch at h
  cases hp : s.portState with
  | idle =>
    rw [hp] at h
    cases hf : s.program[s.pc]? with
    | none => rw [hf] at h; cases h
    | some f => rw [hf] at h; cases h; exact .inl ⟨rfl, rfl, rfl⟩
  | busy =>
    rw [hp] at h
    cases hph : s.phase with
    | none => rw [hph] at h; cases h
    | _ => rw [hph] at h; cases h; exact .inr ⟨rfl, rfl, rfl⟩

/-- Bytes that decode are run (R75), under a legal configuration and with the reset input not asserted. -/
theorem step_of_fetch {s : State} {p : Port} {b : Bytes} {i : Instr} (hl : s.cfg.legal = true)
    (hr : s.resetIn = false) (hf : fetch s = .bytes p b) (hd : decode p b = .ok i) : step s = exec i s := by
  simp [step, hl, hr, hf, hd]

/-- Bytes that do not decode are rejected (R75). -/
theorem step_of_fetch_error {s : State} {p : Port} {b : Bytes} {e : DecodeError} (hl : s.cfg.legal = true)
    (hr : s.resetIn = false) (hf : fetch s = .bytes p b) (hd : decode p b = .error e) : step s = rejectBytes e s := by
  simp [step, hl, hr, hf, hd]

/-- With nothing to run the state stays. -/
theorem step_of_fetch_nothing {s : State} (hl : s.cfg.legal = true) (hr : s.resetIn = false)
    (hf : fetch s = .nothing) : step s = .next s := by
  simp [step, hl, hr, hf]

/-- The reset input is taken first (R221). -/
theorem step_of_resetIn {s : State} (hl : s.cfg.legal = true) (hr : s.resetIn = true) :
    step s = .next s.takeReset := by
  simp [step, hl, hr]

/-- Settles O1: the frame is what the step finds, and it decodes. -/
theorem stepRunsHostRequest : Obligations.StepRunsHostRequest := by
  intro s f i hl hr hp hf hd
  exact step_of_fetch hl hr (fetch_idle hp hf) hd

/-! ## Bytes placed where the next step fetches -/

/-- The placed frame stands at its index, also past the end of the host's sequence. -/
theorem placeFrame_getElem? (program : List Bytes) (pc : Nat) (f : Bytes) :
    (placeFrame program pc f)[pc]? = some f := by
  have hlen : (program.take pc ++ List.replicate (pc - program.length) ([] : Bytes)).length = pc := by
    rw [List.length_append, List.length_take, List.length_replicate]; omega
  rw [placeFrame, ← List.append_assoc, List.getElem?_append_right hlen.le]
  simp [hlen]

/-- A step finds the bytes that were placed for it, at their level. -/
theorem fetch_place (s : State) (p : Port) (b : Bytes) : fetch (s.place p b) = .bytes p b := by
  cases p with
  | host => exact fetch_idle rfl (placeFrame_getElem? s.program s.pc b)
  | wire => rfl

@[simp] theorem State.place_cfg (s : State) (p : Port) (b : Bytes) : (s.place p b).cfg = s.cfg := by cases p <;> rfl

@[simp] theorem State.place_resetIn (s : State) (p : Port) (b : Bytes) : (s.place p b).resetIn = false := by
  cases p <;> rfl

/-- A table row's bits decode as their bytes do. -/
theorem decode_of_decodeTableWord {nbits w : Nat} {i : Instr} (h : decodeTableWord nbits w = some i) :
    decode (tableBytes nbits w).1 (tableBytes nbits w).2 = .ok i := by
  unfold decodeTableWord at h
  split at h
  · rename_i j hj
    rw [hj, Option.some.inj h]
  · cases h

/-- Settles O5: the placed bytes are what the step finds, and they decode to the row's instruction. -/
theorem placedTableWordRuns : Obligations.PlacedTableWordRuns := by
  intro s nbits w i hl hd
  exact step_of_fetch (by simpa [State.withFetchWord] using hl) (State.place_resetIn _ _ _) (fetch_place _ _ _)
    (decode_of_decodeTableWord hd)

/-! ## The run of an instruction -/

/-- What an instruction does to the state once it is accepted (host requests) or goes on (wire commands). -/
def runOf : Instr → State → State
  | .crc8 d, s => s.respond .ok [crc8 d]
  | .crcCheck b0 b1 c, s => s.respond .ok [boolByte (wordValid b0 b1 c)]
  | .fwVersion, s => transact (encode .readFirmwareVersion) 3 fwFields s
  | .measReady, s => transact (encode .pollReady) 3 readyFields s
  | .startCont p, s => writeOnly (encode (.startContinuousMeasurement p (crc8 (bytes16 p)))) s
  | .getMeas, s => transact (encode .readMeasurement) 18 measFields s
  | .histPush co2 temp hum, s => (s.pushEntry { co2 := co2, temp := temp, hum := hum }).respond .ok []
  | .histLen, s => s.respond .ok (bytes16 s.histCount)
  | .histFull, s => s.respond .ok [boolByte s.isFull]
  | .histRead k, s =>
    if s.histCount.toNat ≤ k.toNat then s.respond .indexRange []
    else s.respond .ok (bytesOfMeasurement (s.entryAt k.toNat))
  | .histCap, s => s.respond .ok (bytes16 s.cfg.histCap)
  | .schedStep, s => s.stepScheduler.respond .ok [modeByte s.stepScheduler.mode]
  | .schedRead, s => s.respond .ok (bytes32 s.updateCount ++ [modeByte s.mode])
  | .readFirmwareVersion, s => resume (encode .readFirmwareVersion) 3 fwFields s
  | .pollReady, s => resume (encode .pollReady) 3 readyFields s
  | .readMeasurement, s => resume (encode .readMeasurement) 18 measFields s
  | .startContinuousMeasurement p c, s => writeOnly (encode (.startContinuousMeasurement p c)) s

/-- HIST_READ answers by whether the position holds an entry (R166, R205). -/
theorem runOf_histRead (k : Word16) (s : State) :
    runOf (.histRead k) s =
      if s.histCount.toNat ≤ k.toNat then s.respond .indexRange []
      else s.respond .ok (bytesOfMeasurement (s.entryAt k.toNat)) := rfl

/-- A host request's meaning is its run, accepted by `serve` (R74). -/
theorem exec_host {i : Instr} (hp : i.port = .host) (s : State) : exec i s = serve s (runOf i) := by
  cases i with
  | crc8 | crcCheck | fwVersion | measReady | startCont | getMeas | histPush | histLen | histFull | histRead | histCap
  | schedStep | schedRead => rfl
  | readFirmwareVersion | pollReady | readMeasurement | startContinuousMeasurement => cases hp

/-- A wire command's meaning is its run by the framer (R80). -/
theorem exec_wire {i : Instr} (hp : i.port = .wire) (s : State) : exec i s = serveWire s (runOf i) := by
  cases i with
  | readFirmwareVersion | pollReady | readMeasurement | startContinuousMeasurement => rfl
  | crc8 | crcCheck | fwVersion | measReady | startCont | getMeas | histPush | histLen | histFull | histRead | histCap
  | schedStep | schedRead => cases hp

/-- Everything an instruction can answer with a next state: its run, or a held host request. -/
theorem exec_next {i : Instr} {s t : State} (h : exec i s = .next t) :
    i.port = .host ∧ s.portState = .idle ∧ t = runOf i s.accept ∨ i.port = .host ∧ s.portState = .busy ∧ t = s ∨
      i.port = .wire ∧ t = runOf i s := by
  cases hp : i.port with
  | host =>
    rw [exec_host hp] at h
    obtain ⟨-, ⟨hs, rfl⟩ | ⟨hs, rfl⟩⟩ := serve_next h
    · exact .inl ⟨rfl, hs, rfl⟩
    · exact .inr (.inl ⟨rfl, hs, rfl⟩)
  | wire =>
    rw [exec_wire hp] at h
    obtain ⟨-, rfl⟩ := serveWire_next h
    exact .inr (.inr ⟨rfl, rfl⟩)

/-- Only a legal configuration runs (R223). -/
theorem exec_legal {i : Instr} {s t : State} (h : exec i s = .next t) : s.cfg.legal = true := by
  cases hp : i.port with
  | host => exact (serve_next (exec_host hp s ▸ h)).1
  | wire => exact (serveWire_next (exec_wire hp s ▸ h)).1

/-- Under a legal configuration every instruction answers a next state (R200, R223). -/
theorem exec_answers {s : State} (i : Instr) (hl : s.cfg.legal = true) : ∃ t, exec i s = .next t := by
  cases hp : i.port with
  | host =>
    rw [exec_host hp]
    cases hs : s.portState with
    | idle => exact ⟨_, serve_idle hl hs⟩
    | busy => exact ⟨_, serve_busy hl hs⟩
  | wire => exact ⟨_, (exec_wire hp s).trans (serveWire_legal hl)⟩

end Sys2Proof.Machine
end

section
/-! SUPPORT and PROOF. What a step can do to the block and to the record (10_state.md R20, R27, R29). A request makes at
most one change of its own to the block state (`ownChange`); around it there is only an exchange on the bus, and the
request is then unfinished, answered, or abandoned by a reset (`Ends`). -/

namespace Sys2Proof.Machine

/-! ## An exchange on the bus -/

/-- There are as many responses as in both parts. -/
theorem responses_append (es fs : List Event) : responses (es ++ fs) = responses es + responses fs := by
  induction es with
  | nil => simp [responses]
  | cons e rest ih =>
    cases e with
    | resp st fields => simp only [List.cons_append, responses, ih]; omega
    | write | pause | read => exact ih

/-- `u` is `s` after no more than an exchange on the bus: the framer, the port and the oracle apart, only events that are
no responses were added. -/
structure Exchange (s u : State) : Prop where
  cfg : u.cfg = s.cfg
  block : sameBlockState s u
  resetAt : u.resetAt = s.resetAt
  program : u.program = s.program
  pc : u.pc = s.pc
  events : ∃ es, responses es = 0 ∧ u.events = s.events ++ es

/-- A change of the framer, the port or the oracle alone is an exchange. -/
theorem Exchange.of_events_eq {s u : State} (cfg : u.cfg = s.cfg) (block : sameBlockState s u)
    (resetAt : u.resetAt = s.resetAt) (program : u.program = s.program) (pc : u.pc = s.pc)
    (events : u.events = s.events) : Exchange s u :=
  ⟨cfg, block, resetAt, program, pc, [], rfl, by simpa using events⟩

theorem Exchange.refl (s : State) : Exchange s s := .of_events_eq rfl ⟨rfl, rfl, rfl, rfl, rfl⟩ rfl rfl rfl rfl

theorem Exchange.trans {s u v : State} (h : Exchange s u) (k : Exchange u v) : Exchange s v := by
  obtain ⟨hc, ⟨hn, hm, hs, hh, hl⟩, hr, hp, hi, es, hes, he⟩ := h
  obtain ⟨kc, ⟨kn, km, ks, kh, kl⟩, kr, kp, ki, fs, kfs, ke⟩ := k
  exact ⟨kc.trans hc, ⟨kn.trans hn, km.trans hm, ks.trans hs, kh.trans hh, kl.trans hl⟩, kr.trans hr, kp.trans hp,
    ki.trans hi, es ++ fs, by rw [responses_append, hes, kfs], by rw [ke, he, List.append_assoc]⟩

theorem exchange_accept (s : State) : Exchange s s.accept :=
  .of_events_eq rfl ⟨rfl, rfl, rfl, rfl, rfl⟩ rfl rfl rfl rfl

theorem exchange_waiting (s : State) (ph : Phase) (cmd : Bytes) : Exchange s (waiting s ph cmd) :=
  .of_events_eq rfl ⟨rfl, rfl, rfl, rfl, rfl⟩ rfl rfl rfl rfl

/-- A bus access or a pause that is recorded. -/
theorem exchange_drawn (s : State) {e : Event} (he : responses [e] = 0) : Exchange s (drawn s e) :=
  ⟨rfl, ⟨rfl, rfl, rfl, rfl, rfl⟩, rfl, rfl, rfl, [e], he, rfl⟩

theorem exchange_doPause (s : State) : Exchange s s.doPause :=
  ⟨rfl, ⟨rfl, rfl, rfl, rfl, rfl⟩, rfl, rfl, rfl, [.pause s.cfg.tPause], rfl, rfl⟩

/-- Phase WRITE up to its return. -/
theorem exchange_written (s : State) (cmd : Bytes) (o : WriteOutcome) :
    Exchange s ((s.enterWrite cmd).consume.record (.write s.cfg.devAddr cmd o)) :=
  ⟨rfl, ⟨rfl, rfl, rfl, rfl, rfl⟩, rfl, rfl, rfl, [.write s.cfg.devAddr cmd o], rfl, rfl⟩

/-! ## How a request stands after its run -/

/-- How a run that started in `s` stands: after an exchange on the bus it is unfinished, answered, or abandoned by a
reset inside it (R56, R67, R221). -/
inductive Ends (s : State) : State → Prop
  | unfinished {u : State} (exchange : Exchange s u) : Ends s u
  | answered {u : State} (exchange : Exchange s u) (st : Status) (fields : Bytes) : Ends s (answeredWith u st fields)
  | abandoned {u : State} (exchange : Exchange s u) (reset : s.resetAt ≠ none) : Ends s (abandoned u)

/-- An exchange before a run belongs to the run. -/
theorem Ends.after_exchange {s u t : State} (h : Exchange s u) (k : Ends u t) : Ends s t := by
  cases k with
  | unfinished k => exact .unfinished (h.trans k)
  | answered k st fields => exact .answered (h.trans k) st fields
  | abandoned k hr => exact .abandoned (h.trans k) (h.resetAt ▸ hr)

/-- A response at once ends a request (R121). -/
theorem ends_respond (s : State) (st : Status) (fields : Bytes) : Ends s (s.respond st fields) :=
  .answered (.refl s) st fields

/-- The reset input asserted at an instant of the transaction. -/
theorem ends_abandoned {s u : State} {p : ResetPoint} (h : Exchange s u) (hr : s.resetAt = some p) :
    Ends s (abandoned u) :=
  .abandoned h (by simp [hr])

theorem ends_checkPhase (fields : List Word16 → Bytes) (s : State) : Ends s (checkPhase fields s) := by
  unfold checkPhase
  split
  · exact ends_respond s _ _
  · exact ends_respond s _ _

theorem ends_readPhase (n : Nat) (fields : List Word16 → Bytes) (s : State) : Ends s (readPhase n fields s) := by
  rw [readPhase_eq]
  cases s.answerTo (.read s.cfg.devAddr n) with
  | ok b =>
    dsimp only
    split_ifs with hr
    · exact ends_abandoned (exchange_drawn s rfl) hr
    · exact .answered (exchange_drawn s rfl) _ _
    · exact .answered (exchange_drawn s rfl) _ _
  | err c =>
    dsimp only
    split_ifs with hr
    · exact ends_abandoned (exchange_drawn s rfl) hr
    · exact .answered (exchange_drawn s rfl) _ _
  | pending => exact .unfinished (.of_events_eq rfl ⟨rfl, rfl, rfl, rfl, rfl⟩ rfl rfl rfl rfl)

theorem ends_pausePhase (n : Nat) (fields : List Word16 → Bytes) (s : State) : Ends s (pausePhase n fields s) := by
  refine .after_exchange (exchange_doPause s) ?_
  rw [pausePhase, orReset_eq]
  split
  · exact ends_abandoned (.refl _) ‹_›
  · exact ends_readPhase n fields _

theorem ends_busWrite (cmd : Bytes) {next : State → State} (hnext : ∀ u, Ends u (next u)) (s : State) :
    Ends s (busWrite cmd next s) := by
  rw [busWrite_eq]
  cases s.answerTo (.write s.cfg.devAddr cmd) with
  | ok b =>
    dsimp only
    split_ifs with hr
    · exact ends_abandoned (exchange_drawn s rfl) hr
    · exact .after_exchange (exchange_written s cmd .ok) (hnext _)
  | err c =>
    dsimp only
    split_ifs with hr
    · exact ends_abandoned (exchange_drawn s rfl) hr
    · exact .answered (exchange_drawn s rfl) _ _
  | pending => exact .unfinished (exchange_waiting s _ _)

theorem ends_transact (cmd : Bytes) (n : Nat) (fields : List Word16 → Bytes) (s : State) :
    Ends s (transact cmd n fields s) :=
  ends_busWrite cmd (ends_pausePhase n fields) s

theorem ends_writeOnly (cmd : Bytes) (s : State) : Ends s (writeOnly cmd s) :=
  ends_busWrite cmd (fun u => ends_respond u _ _) s

theorem ends_resume (cmd : Bytes) (n : Nat) (fields : List Word16 → Bytes) (s : State) :
    Ends s (resume cmd n fields s) := by
  unfold resume
  cases s.phase with
  | none => exact ends_transact cmd n fields s
  | write => exact ends_transact cmd n fields s
  | pause => exact ends_pausePhase n fields s
  | read => exact ends_readPhase n fields s
  | check => exact ends_checkPhase fields s

/-! ## The instructions and the step -/

/-- The change of the block state that is an instruction's own: a push (R160) or a step of the scheduler (R180), and
for every other instruction none. -/
def ownChange : Instr → State → State
  | .histPush co2 temp hum, s => s.pushEntry { co2 := co2, temp := temp, hum := hum }
  | .schedStep, s => s.stepScheduler
  | _, s => s

@[simp] theorem ownChange_histPush (co2 temp hum : Word32) (s : State) :
    ownChange (.histPush co2 temp hum) s = s.pushEntry { co2 := co2, temp := temp, hum := hum } := rfl

/-- Which instructions change the block state. -/
theorem ownChange_cases (i : Instr) (s : State) :
    ownChange i s = s ∨ (∃ co2 temp hum, i = .histPush co2 temp hum) ∨ i = .schedStep := by
  cases i with
  | histPush co2 temp hum => exact .inr (.inl ⟨co2, temp, hum, rfl⟩)
  | schedStep => exact .inr (.inr rfl)
  | _ => exact .inl rfl

/-- An instruction's run is its own change and then only a bus exchange and its end. -/
theorem ends_runOf (i : Instr) (s : State) : Ends (ownChange i s) (runOf i s) := by
  cases i with
  | fwVersion | measReady | getMeas => exact ends_transact _ _ _ s
  | startCont | startContinuousMeasurement => exact ends_writeOnly _ s
  | readFirmwareVersion | pollReady | readMeasurement => exact ends_resume _ _ _ s
  | histRead k =>
    rw [runOf_histRead]
    split
    · exact ends_respond s _ _
    · exact ends_respond s _ _
  | crc8 | crcCheck | histPush | histLen | histFull | histCap | schedStep | schedRead => exact ends_respond _ _ _

/-- A push into a ring that is not full takes the slot after the newest entry (R160). -/
theorem pushEntry_notFull {s : State} (h : s.histCount.toNat < s.cfg.histCap.toNat) (m : Measurement) :
    s.pushEntry m =
      { s with
        histSlot := Memory.write s.histSlot (s.slotIndex s.histCount.toNat) m
        histCount := s.histCount + 1 } := if_pos h

/-- A push into a full ring takes the slot of the oldest entry (R160). -/
theorem pushEntry_full {s : State} (h : s.cfg.histCap.toNat ≤ s.histCount.toNat) (m : Measurement) :
    s.pushEntry m =
      { s with
        histSlot := Memory.write s.histSlot s.histHead.toNat m
        histHead := BitVec.ofNat 16 (s.slotIndex 1) } := if_neg (not_lt.2 h)

/-- A push writes the same slot whatever the port shows. -/
theorem pushEntry_accept (s : State) (m : Measurement) : s.accept.pushEntry m = (s.pushEntry m).accept := by
  rcases lt_or_ge s.histCount.toNat s.cfg.histCap.toNat with h | h
  · rw [pushEntry_notFull h, pushEntry_notFull (s := s.accept) h]; rfl
  · rw [pushEntry_full h, pushEntry_full (s := s.accept) h]; rfl

/-- Accepting the request does not show in its own change. -/
theorem ownChange_accept (i : Instr) (s : State) : ownChange i s.accept = (ownChange i s).accept := by
  cases i with
  | histPush co2 temp hum => exact pushEntry_accept s _
  | _ => rfl

/-- Everything an instruction can do: a held request does nothing (R74), any other makes its own change and ends. -/
theorem exec_ends {i : Instr} {s t : State} (h : exec i s = .next t) : t = s ∨ Ends (ownChange i s) t := by
  obtain ⟨-, -, rfl⟩ | ⟨-, -, rfl⟩ | ⟨-, rfl⟩ := exec_next h
  · right
    refine .after_exchange (exchange_accept _) ?_
    rw [← ownChange_accept]
    exact ends_runOf i s.accept
  · exact .inl rfl
  · exact .inr (ends_runOf i s)

/-- The block state changes before a step's exchange: not at all, or as the host's next frame asks of an Idle port. -/
def FrameChange (s s' : State) : Prop :=
  s' = s ∨ ∃ f i, s.portState = .idle ∧ s.program[s.pc]? = some f ∧ decodeHost f = .ok i ∧ s' = ownChange i s

/-- Everything a step can do: take the reset input, or make the change the host's next frame asks for and end. -/
theorem step_ends {s t : State} (h : step s = .next t) :
    s.resetIn = true ∧ t = abandoned s ∨ ∃ s', FrameChange s s' ∧ Ends s' t := by
  obtain ⟨-, ⟨hr, rfl⟩ | ⟨-, ⟨-, rfl⟩ | ⟨p, b, hf, hrun⟩⟩⟩ := step_next h
  · exact .inl ⟨hr, rfl⟩
  · exact .inr ⟨_, .inl rfl, .unfinished (.refl _)⟩
  right
  obtain ⟨i, hd, hexec⟩ | ⟨e, -, hreject⟩ := hrun
  · obtain rfl | hends := exec_ends hexec
    · exact ⟨_, .inl rfl, .unfinished (.refl _)⟩
    obtain ⟨hp, rfl, hframe⟩ | ⟨-, rfl, -⟩ := fetch_bytes hf
    · exact ⟨_, .inr ⟨b, i, hp, hframe, hd, rfl⟩, hends⟩
    · have hnone : ownChange i s = s := by
        cases i with
        | histPush | schedStep => cases (encode_of_decodeWire hd).1
        | _ => rfl
      exact ⟨s, .inl rfl, hnone ▸ hends⟩
  · obtain ⟨-, rfl⟩ | ⟨-, rfl⟩ := rejectBytes_next hreject
    · exact ⟨_, .inl rfl, ends_respond s _ _⟩
    · exact ⟨_, .inl rfl, ends_respond s _ _⟩

/-! ## What an end leaves -/

/-- An end keeps the block state, or it took a reset. -/
theorem Ends.block {s t : State} (h : Ends s t) :
    sameBlockState s t ∨ s.resetAt ≠ none ∧ t = Machine.abandoned t := by
  cases h with
  | unfinished h => exact .inl h.block
  | answered h st fields => exact .inl h.block
  | abandoned h hr => exact .inr ⟨hr, rfl⟩

theorem Ends.cfg {s t : State} (h : Ends s t) : t.cfg = s.cfg := by
  cases h with
  | unfinished h => exact h.cfg
  | answered h st fields => exact h.cfg
  | abandoned h hr => exact h.cfg

/-- An end adds to the record, with one response when the request is answered and none otherwise, and the host's index
follows it (R27, R67). -/
theorem Ends.record {s t : State} (h : Ends s t) :
    ∃ added, t.events = s.events ++ added ∧ responses added ≤ 1 ∧ t.pc = s.pc + responses added ∧
      t.program = s.program := by
  cases h with
  | unfinished h =>
    obtain ⟨es, hes, he⟩ := h.events
    exact ⟨es, he, by omega, by rw [h.pc, hes]; rfl, h.program⟩
  | @answered u h st fields =>
    obtain ⟨es, hes, he⟩ := h.events
    have hone : responses (es ++ [.resp st fields]) = 1 := by rw [responses_append, hes]; rfl
    refine ⟨es ++ [.resp st fields], ?_, hone.le, ?_, h.program⟩
    · rw [← List.append_assoc, ← he]; rfl
    · rw [hone, ← h.pc]; rfl
  | abandoned h hr =>
    obtain ⟨es, hes, he⟩ := h.events
    exact ⟨es, he, by omega, by rw [hes]; exact h.pc, h.program⟩

/-! ## The statements -/

/-- A frame's change reaches the block state alone. -/
theorem FrameChange.outside {s s' : State} (h : FrameChange s s') :
    s'.cfg = s.cfg ∧ s'.resetAt = s.resetAt ∧ s'.events = s.events ∧ s'.pc = s.pc ∧ s'.program = s.program := by
  obtain rfl | ⟨f, i, -, -, -, rfl⟩ := h
  · exact ⟨rfl, rfl, rfl, rfl, rfl⟩
  · cases i with
    | histPush co2 temp hum => simp
    | _ => exact ⟨rfl, rfl, rfl, rfl, rfl⟩

/-- A frame's change leaves the history, unless the frame is a push (R168). -/
theorem FrameChange.history {s s' : State} (h : FrameChange s s') :
    (s'.histSlot = s.histSlot ∧ s'.histHead = s.histHead ∧ s'.histCount = s.histCount) ∨
      s.portState = .idle ∧ ∃ ops : Bytes, ops.length = 12 ∧ s.program[s.pc]? = some (0x20#8 :: ops) := by
  obtain rfl | ⟨f, i, hp, hf, hd, rfl⟩ := h
  · exact .inl ⟨rfl, rfl, rfl⟩
  · obtain hnone | ⟨co2, temp, hum, rfl⟩ | rfl := ownChange_cases i s
    · exact .inl (by rw [hnone]; exact ⟨rfl, rfl, rfl⟩)
    · obtain ⟨ops, hlen, rfl⟩ := frame_of_decode_histPush hd
      exact .inr ⟨hp, ops, hlen, hf⟩
    · exact .inl ⟨rfl, rfl, rfl⟩

/-- Settles O37: the end of a request writes no history without a reset, and before it only a push does. -/
theorem historyChangesOnlyByPush : Obligations.HistoryChangesOnlyByPush := by
  intro s t h
  obtain ⟨hr, rfl⟩ | ⟨s', hchange, hends⟩ := step_ends h
  · exact .inr (.inl ⟨.inl hr, rfl⟩)
  obtain ⟨-, -, hslot, hhead, hcount⟩ | ⟨hr, ht⟩ := hends.block
  · obtain ⟨kslot, khead, kcount⟩ | hpush := hchange.history
    · exact .inl ⟨hslot.trans kslot, hhead.trans khead, hcount.trans kcount⟩
    · exact .inr (.inr hpush)
  · obtain ⟨-, hreset, -⟩ := hchange.outside
    exact .inr (.inl ⟨.inr (hreset ▸ hr), ht⟩)

/-- Settles O49: a taken reset adds nothing, and every other step ends as `Ends.record` says. -/
theorem oneResponsePerRequest : Obligations.OneResponsePerRequest := by
  intro s t h
  obtain ⟨-, rfl⟩ | ⟨s', hchange, hends⟩ := step_ends h
  · exact ⟨[], (List.append_nil _).symm, by decide, rfl, rfl⟩
  · obtain ⟨-, -, hevents, hpc, hprogram⟩ := hchange.outside
    rw [← hevents, ← hpc, ← hprogram]
    exact hends.record

/-- Whether the stored mode is right depends on the scheduler's elements and the modulus alone. -/
theorem schedulerOk_congr {s t : State} (hc : t.cfg = s.cfg) (hn : t.updateCount = s.updateCount)
    (hm : t.mode = s.mode) : schedulerOk t = schedulerOk s := by
  simp [schedulerOk, hc, hn, hm]

/-- A reset leaves the count 0 and the mode Full (R220). -/
theorem schedulerOk_abandoned (s : State) : schedulerOk (abandoned s) = true := by
  simp [schedulerOk, abandoned]

/-- A step of the scheduler stores the mode of the count it then increments (R180). -/
theorem schedulerOk_stepScheduler (s : State) : schedulerOk s.stepScheduler = true := by
  simp [schedulerOk]

theorem FrameChange.schedulerOk {s s' : State} (h : FrameChange s s') (hs : schedulerOk s = true) :
    schedulerOk s' = true := by
  obtain rfl | ⟨f, i, -, -, -, rfl⟩ := h
  · exact hs
  · obtain hnone | ⟨co2, temp, hum, rfl⟩ | rfl := ownChange_cases i s
    · rwa [hnone]
    · rwa [schedulerOk_congr] <;> simp
    · exact schedulerOk_stepScheduler s

/-- Every step keeps the stored mode right (R21, C1). -/
theorem step_schedulerOk {s t : State} (hs : schedulerOk s = true) (h : step s = .next t) : schedulerOk t = true := by
  obtain ⟨-, rfl⟩ | ⟨s', hchange, hends⟩ := step_ends h
  · exact schedulerOk_abandoned s
  obtain ⟨hcount, hmode, -⟩ | ⟨-, ht⟩ := hends.block
  · rw [schedulerOk_congr hends.cfg hcount hmode]
    exact hchange.schedulerOk hs
  · rw [ht]
    exact schedulerOk_abandoned t

/-- Settles O43: reset has the mode Full at count 0, and every step keeps the stored mode right. -/
theorem storedModeOfPreviousCount : Obligations.StoredModeOfPreviousCount :=
  ⟨schedulerOk_abandoned State.reset, fun _ _ => step_schedulerOk⟩

end Sys2Proof.Machine
end

section
/-! SUPPORT. The ring of 10_state.md R22 under a push (42_history.md R160, R161): which slot each position has, what the
sequence becomes, and that the ring stays well formed. -/

namespace Sys2Proof.Machine

/-! ## The well-formed ring -/

/-- The ring of R22, one field for each thing that `historyOk` decides. -/
structure RingOk (s : State) : Prop where
  canonical : Memory.wf s.histSlot = true
  slots : ∀ e ∈ s.histSlot, e.1 < s.cfg.histCap.toNat
  head : s.histHead.toNat < s.cfg.histCap.toNat
  count : s.histCount.toNat ≤ s.cfg.histCap.toNat
  entries : ∀ i < s.histCount.toNat, (Memory.read s.histSlot (s.slotIndex i)).isSome = true

theorem historyOk_iff {s : State} : historyOk s = true ↔ RingOk s := by
  simp only [historyOk, Bool.and_eq_true, List.all_eq_true, decide_eq_true_eq, List.mem_range]
  constructor
  · rintro ⟨⟨⟨⟨canonical, slots⟩, head⟩, count⟩, entries⟩
    exact ⟨canonical, slots, head, count, entries⟩
  · rintro ⟨canonical, slots, head, count, entries⟩
    exact ⟨⟨⟨⟨canonical, slots⟩, head⟩, count⟩, entries⟩

/-- `v` has the ring of `u`, under the same configuration. -/
structure SameRing (u v : State) : Prop where
  cfg : v.cfg = u.cfg
  histSlot : v.histSlot = u.histSlot
  histHead : v.histHead = u.histHead
  histCount : v.histCount = u.histCount

theorem SameRing.historyOk {u v : State} (h : SameRing u v) : historyOk v = historyOk u := by
  simp only [Machine.historyOk, State.slotIndex, h.cfg, h.histSlot, h.histHead, h.histCount]

theorem SameRing.entryAt {u v : State} (h : SameRing u v) : v.entryAt = u.entryAt := by
  funext i
  simp only [State.entryAt, State.readSlot, State.slotIndex, h.cfg, h.histSlot, h.histHead]

theorem SameRing.history {u v : State} (h : SameRing u v) : v.history = u.history := by
  simp only [State.history, h.entryAt, h.histCount]

/-- An empty ring is well formed where there is a slot at all. -/
theorem historyOk_abandoned {s : State} (h : 0 < s.cfg.histCap.toNat) : historyOk (abandoned s) = true :=
  historyOk_iff.2
    { canonical := rfl
      slots := by simp [abandoned]
      head := h
      count := Nat.zero_le _
      entries := by simp [abandoned] }

/-! ## Slots and positions -/

theorem slotIndex_lt {s : State} (h : 0 < s.cfg.histCap.toNat) (i : Nat) : s.slotIndex i < s.cfg.histCap.toNat :=
  Nat.mod_lt _ h

/-- Different positions have different slots (R22). -/
theorem slotIndex_inj {s : State} {i j : Nat} (hi : i < s.cfg.histCap.toNat) (hj : j < s.cfg.histCap.toNat)
    (h : s.slotIndex i = s.slotIndex j) : i = j :=
  Nat.ModEq.eq_of_lt_of_lt (Nat.ModEq.add_left_cancel' s.histHead.toNat h) hi hj

/-- The head is the slot of position 0. -/
theorem slotIndex_zero {s : State} (h : s.histHead.toNat < s.cfg.histCap.toNat) : s.slotIndex 0 = s.histHead.toNat :=
  Nat.mod_eq_of_lt h

/-- One turn around the ring leads back to the head. -/
theorem slotIndex_histCap (s : State) : s.slotIndex s.cfg.histCap.toNat = s.slotIndex 0 := by
  simp [State.slotIndex]

/-- A slot that was just written reads as its entry, every other slot as before. -/
theorem readSlot_of_write {s u : State} {j : Nat} {m : Measurement} (h : u.histSlot = Memory.write s.histSlot j m)
    (k : Nat) : u.readSlot k = if k = j then m else s.readSlot k := by
  rw [State.readSlot, h, Memory.read_write]
  by_cases hk : k = j
  · rw [if_pos hk, if_pos hk]
  · rw [if_neg hk, if_neg hk, State.readSlot]

/-- A slot that held an entry holds one after a write, and so does the written slot. -/
theorem read_isSome_of_write {mem : Memory} {j k : Nat} {m : Measurement}
    (h : k ≠ j → (Memory.read mem k).isSome = true) : (Memory.read (Memory.write mem j m) k).isSome = true := by
  rw [Memory.read_write]
  split
  · rfl
  · exact h ‹_›

/-- A write below the capacity leaves every listed slot below it. -/
theorem slots_of_write {mem : Memory} {j cap : Nat} {m : Measurement} (hj : j < cap) (h : ∀ e ∈ mem, e.1 < cap) :
    ∀ e ∈ Memory.write mem j m, e.1 < cap := by
  intro e he
  obtain rfl | he := Memory.mem_write mem j m e he
  · exact hj
  · exact h e he

/-! ## A push into a ring that is not full -/

section NotFull

variable {s : State} (h : s.histCount.toNat < s.cfg.histCap.toNat) (m : Measurement)
include h

theorem pushEntry_notFull_slotIndex (i : Nat) : (s.pushEntry m).slotIndex i = s.slotIndex i := by
  rw [pushEntry_notFull h]; rfl

theorem pushEntry_notFull_histCount : (s.pushEntry m).histCount.toNat = s.histCount.toNat + 1 := by
  have hcap := s.cfg.histCap.isLt
  rw [pushEntry_notFull h]
  exact BitVec.toNat_add_of_lt (by simp; omega)

theorem pushEntry_notFull_histSlot :
    (s.pushEntry m).histSlot = Memory.write s.histSlot (s.slotIndex s.histCount.toNat) m := by
  rw [pushEntry_notFull h]

/-- The older entries stay at their positions. -/
theorem pushEntry_notFull_entryAt {i : Nat} (hi : i < s.histCount.toNat) :
    (s.pushEntry m).entryAt i = s.entryAt i := by
  have hne : s.slotIndex i ≠ s.slotIndex s.histCount.toNat := fun heq =>
    hi.ne (slotIndex_inj (hi.trans h) h heq)
  rw [State.entryAt, pushEntry_notFull_slotIndex h, readSlot_of_write (pushEntry_notFull_histSlot h m), if_neg hne]
  rfl

/-- The new entry stands after them. -/
theorem pushEntry_notFull_entryAt_newest : (s.pushEntry m).entryAt s.histCount.toNat = m := by
  rw [State.entryAt, pushEntry_notFull_slotIndex h, readSlot_of_write (pushEntry_notFull_histSlot h m), if_pos rfl]

/-- A ring that is not full holds the new entry after the older ones (R161). -/
theorem pushEntry_notFull_history : (s.pushEntry m).history = s.history ++ [m] := by
  rw [State.history, pushEntry_notFull_histCount h, List.range_succ, List.map_append, List.map_singleton,
    pushEntry_notFull_entryAt_newest h]
  congr 1
  exact List.map_congr_left fun i hi => pushEntry_notFull_entryAt h m (List.mem_range.1 hi)

theorem pushEntry_notFull_ringOk (hs : RingOk s) : RingOk (s.pushEntry m) := by
  have hpos : 0 < s.cfg.histCap.toNat := by omega
  refine ⟨?_, ?_, ?_, ?_, ?_⟩
  · rw [pushEntry_notFull_histSlot h]
    exact Memory.wf_write _ _ _ hs.canonical
  · rw [pushEntry_notFull_histSlot h, State.pushEntry_cfg]
    exact slots_of_write (slotIndex_lt hpos _) hs.slots
  · rw [pushEntry_notFull h]
    exact hs.head
  · rw [pushEntry_notFull_histCount h, State.pushEntry_cfg]
    exact h
  · intro i hi
    rw [pushEntry_notFull_histCount h] at hi
    rw [pushEntry_notFull_histSlot h, pushEntry_notFull_slotIndex h]
    refine read_isSome_of_write fun hne => hs.entries i ?_
    have hlast : i ≠ s.histCount.toNat := fun heq => hne (by rw [heq])
    omega

end NotFull

/-! ## A push into a full ring -/

section Full

variable {s : State} (hs : RingOk s) (h : s.cfg.histCap.toNat ≤ s.histCount.toNat) (m : Measurement)

include hs h

/-- The head moves to the slot of position 1. -/
theorem pushEntry_full_histHead : (s.pushEntry m).histHead.toNat = s.slotIndex 1 := by
  have hlt : s.slotIndex 1 < 2 ^ 16 := (slotIndex_lt (Nat.zero_lt_of_lt hs.head) 1).trans s.cfg.histCap.isLt
  rw [pushEntry_full h]
  exact (BitVec.toNat_ofNat _ _).trans (Nat.mod_eq_of_lt hlt)

/-- Every position moves by one. -/
theorem pushEntry_full_slotIndex (i : Nat) : (s.pushEntry m).slotIndex i = s.slotIndex (i + 1) := by
  rw [State.slotIndex, pushEntry_full_histHead hs h, State.pushEntry_cfg]
  simp only [State.slotIndex]
  rw [Nat.mod_add_mod, Nat.add_assoc, Nat.add_comm 1 i]

omit hs in
theorem pushEntry_full_histCount : (s.pushEntry m).histCount = s.histCount := by
  rw [pushEntry_full h]

/-- The written slot is the one of the oldest entry, which becomes the slot of the newest. -/
theorem pushEntry_full_histSlot : (s.pushEntry m).histSlot = Memory.write s.histSlot (s.slotIndex 0) m := by
  rw [slotIndex_zero hs.head, pushEntry_full h]

/-- The entries after the oldest move down by one position. -/
theorem pushEntry_full_entryAt {i : Nat} (hi : i + 1 < s.cfg.histCap.toNat) :
    (s.pushEntry m).entryAt i = s.entryAt (i + 1) := by
  have hne : s.slotIndex (i + 1) ≠ s.slotIndex 0 := fun heq =>
    i.succ_ne_zero (slotIndex_inj hi (Nat.zero_lt_of_lt hi) heq)
  rw [State.entryAt, pushEntry_full_slotIndex hs h m, readSlot_of_write (pushEntry_full_histSlot hs h m), if_neg hne]
  rfl

/-- The new entry stands at the last position. -/
theorem pushEntry_full_entryAt_newest {i : Nat} (hi : i + 1 = s.cfg.histCap.toNat) : (s.pushEntry m).entryAt i = m := by
  rw [State.entryAt, pushEntry_full_slotIndex hs h m, hi, slotIndex_histCap,
    readSlot_of_write (pushEntry_full_histSlot hs h m), if_pos rfl]

/-- A full ring drops its oldest entry and holds the new one after the others (R161). -/
theorem pushEntry_full_history : (s.pushEntry m).history = s.history.tail ++ [m] := by
  obtain ⟨n, hn⟩ : ∃ n, s.histCount.toNat = n + 1 := Nat.exists_eq_add_one.2 (by have := hs.head; omega)
  have hcap : n + 1 = s.cfg.histCap.toNat := by have := hs.count; omega
  have htail : s.history.tail = (List.range n).map fun i => s.entryAt (i + 1) := by
    rw [State.history, hn, List.range_succ_eq_map, List.map_cons, List.tail_cons, List.map_map]; rfl
  rw [htail, State.history, pushEntry_full_histCount h, hn, List.range_succ, List.map_append, List.map_singleton,
    pushEntry_full_entryAt_newest hs h m hcap]
  congr 1
  exact List.map_congr_left fun i hi =>
    pushEntry_full_entryAt hs h m (by have := List.mem_range.1 hi; omega)

theorem pushEntry_full_ringOk : RingOk (s.pushEntry m) := by
  have hpos : 0 < s.cfg.histCap.toNat := Nat.zero_lt_of_lt hs.head
  refine ⟨?_, ?_, ?_, ?_, ?_⟩
  · rw [pushEntry_full_histSlot hs h]
    exact Memory.wf_write _ _ _ hs.canonical
  · rw [pushEntry_full_histSlot hs h, State.pushEntry_cfg]
    exact slots_of_write (slotIndex_lt hpos _) hs.slots
  · rw [pushEntry_full_histHead hs h, State.pushEntry_cfg]
    exact slotIndex_lt hpos 1
  · rw [pushEntry_full_histCount h, State.pushEntry_cfg]
    exact hs.count
  · intro i hi
    rw [pushEntry_full_histCount h] at hi
    rw [pushEntry_full_histSlot hs h, pushEntry_full_slotIndex hs h m]
    refine read_isSome_of_write fun hne => hs.entries (i + 1) ?_
    have hlast : i + 1 ≠ s.cfg.histCap.toNat := fun heq => hne (by rw [heq, slotIndex_histCap])
    have hcount := hs.count
    omega

end Full

/-- What a push leaves of the sequence (R161). -/
theorem pushEntry_history {s : State} (hs : RingOk s) (m : Measurement) :
    (s.pushEntry m).history =
      if s.histCount.toNat < s.cfg.histCap.toNat then s.history ++ [m] else s.history.tail ++ [m] := by
  split
  · exact pushEntry_notFull_history ‹_› m
  · exact pushEntry_full_history hs (not_lt.1 ‹_›) m

/-- A push keeps the ring well formed. -/
theorem pushEntry_ringOk {s : State} (hs : RingOk s) (m : Measurement) : RingOk (s.pushEntry m) := by
  rcases lt_or_ge s.histCount.toNat s.cfg.histCap.toNat with h | h
  · exact pushEntry_notFull_ringOk h m hs
  · exact pushEntry_full_ringOk hs h m

end Sys2Proof.Machine
end

section
/-! SUPPORT and PROOF. How the ring holds its sequence cannot be told from outside (10_state.md R31): every operation,
every run and every step keeps two states alike (`RingAlike`) that differ in that alone. -/

namespace Sys2Proof.Machine

/-! ## States that differ in their rings alone -/

/-- `s` with other slots and another head. -/
def State.withRing (s : State) (mem : Memory) (head : Word16) : State :=
  { s with histSlot := mem, histHead := head }

/-- States of one view differ in slots and head, which hold the same sequence. -/
theorem sameView_iff {s t : State} :
    sameView s t ↔ (∃ mem head, s = t.withRing mem head) ∧ t.history = s.history := by
  constructor
  · rintro ⟨h, hh⟩
    exact ⟨⟨s.histSlot, s.histHead, h.symm⟩, hh⟩
  · rintro ⟨⟨mem, head, rfl⟩, hh⟩
    exact ⟨rfl, hh⟩

/-- Two well-formed rings that hold the same sequence, in states that are otherwise the same. -/
structure RingAlike (s t : State) : Prop where
  left : historyOk s = true
  right : historyOk t = true
  view : sameView s t

namespace RingAlike

theorem refl {s : State} (h : historyOk s = true) : RingAlike s s :=
  ⟨h, h, sameView_iff.2 ⟨⟨s.histSlot, s.histHead, rfl⟩, rfl⟩⟩

variable {s t : State} (h : RingAlike s t)
include h

/-- A change of state that neither reads nor writes the slots and the head keeps states alike. -/
theorem map {f : State → State} (hf : ∀ u mem head, f (u.withRing mem head) = (f u).withRing mem head)
    (hring : ∀ u, SameRing u (f u)) : RingAlike (f s) (f t) := by
  obtain ⟨hs, ht, hview⟩ := h
  obtain ⟨⟨mem, head, heq⟩, hh⟩ := sameView_iff.1 hview
  refine ⟨(hring s).historyOk.trans hs, (hring t).historyOk.trans ht, sameView_iff.2 ⟨⟨mem, head, ?_⟩, ?_⟩⟩
  · rw [heq, hf]
  · rw [(hring t).history, (hring s).history, hh]

/-- What is outside the slots and the head is the same. -/
theorem eq_of_blind {α : Type} {g : State → α} (hg : ∀ u mem head, g (u.withRing mem head) = g u) : g s = g t := by
  obtain ⟨⟨mem, head, rfl⟩, -⟩ := sameView_iff.1 h.view
  exact hg t mem head

theorem cfg : s.cfg = t.cfg := h.eq_of_blind fun _ _ _ => rfl
theorem resetAt : s.resetAt = t.resetAt := h.eq_of_blind fun _ _ _ => rfl
theorem resetIn : s.resetIn = t.resetIn := h.eq_of_blind fun _ _ _ => rfl
theorem phase : s.phase = t.phase := h.eq_of_blind fun _ _ _ => rfl
theorem rx : s.rx = t.rx := h.eq_of_blind fun _ _ _ => rfl
theorem portState : s.portState = t.portState := h.eq_of_blind fun _ _ _ => rfl
theorem histCount : s.histCount = t.histCount := h.eq_of_blind fun _ _ _ => rfl
theorem updateCount : s.updateCount = t.updateCount := h.eq_of_blind fun _ _ _ => rfl
theorem mode : s.mode = t.mode := h.eq_of_blind fun _ _ _ => rfl
theorem isFull : s.isFull = t.isFull := h.eq_of_blind fun _ _ _ => rfl
theorem fetch : fetch s = fetch t := h.eq_of_blind fun _ _ _ => rfl
theorem answerTo (op : BusOp) : s.answerTo op = t.answerTo op :=
  h.eq_of_blind (g := fun u => u.answerTo op) fun _ _ _ => rfl

/-- Positions that hold an entry hold the same one. -/
theorem entryAt {i : Nat} (hi : i < t.histCount.toNat) : s.entryAt i = t.entryAt i := by
  have hh := h.view.2
  rw [State.history, State.history, h.histCount] at hh
  exact (List.map_inj_left.1 hh i (List.mem_range.2 hi)).symm

/-! ## The operations -/

theorem accept : RingAlike s.accept t.accept := h.map (fun _ _ _ => rfl) fun _ => ⟨rfl, rfl, rfl, rfl⟩

theorem drawn (e : Event) : RingAlike (drawn s e) (drawn t e) :=
  h.map (f := fun u => Machine.drawn u e) (fun _ _ _ => rfl) fun _ => ⟨rfl, rfl, rfl, rfl⟩

theorem answered (st : Status) (fields : Bytes) : RingAlike (answeredWith s st fields) (answeredWith t st fields) :=
  h.map (f := fun u => answeredWith u st fields) (fun _ _ _ => rfl) fun _ => ⟨rfl, rfl, rfl, rfl⟩

theorem waiting (ph : Phase) (cmd : Bytes) : RingAlike (waiting s ph cmd) (waiting t ph cmd) :=
  h.map (f := fun u => Machine.waiting u ph cmd) (fun _ _ _ => rfl) fun _ => ⟨rfl, rfl, rfl, rfl⟩

theorem written (cmd : Bytes) (e : Event) :
    RingAlike ((s.enterWrite cmd).consume.record e) ((t.enterWrite cmd).consume.record e) :=
  h.map (f := fun u => (u.enterWrite cmd).consume.record e) (fun _ _ _ => rfl) fun _ => ⟨rfl, rfl, rfl, rfl⟩

theorem doPause : RingAlike s.doPause t.doPause := h.map (fun _ _ _ => rfl) fun _ => ⟨rfl, rfl, rfl, rfl⟩

/-- A read that has not returned. -/
theorem stillReading : RingAlike { s.consume with phase := .read } { t.consume with phase := .read } :=
  h.map (f := fun u => { u.consume with phase := .read }) (fun _ _ _ => rfl) fun _ => ⟨rfl, rfl, rfl, rfl⟩

theorem stepScheduler : RingAlike s.stepScheduler t.stepScheduler :=
  h.map (fun _ _ _ => rfl) fun _ => ⟨rfl, rfl, rfl, rfl⟩

/-- A reset leaves nothing of either ring. -/
theorem abandoned : RingAlike (abandoned s) (abandoned t) := by
  have heq : Machine.abandoned s = Machine.abandoned t := h.eq_of_blind fun _ _ _ => rfl
  rw [heq]
  exact .refl (historyOk_abandoned (Nat.zero_lt_of_lt (historyOk_iff.1 h.right).head))

/-- A push of one entry keeps the sequences the same (R161), wherever the two rings put it. -/
theorem pushEntry (m : Measurement) : RingAlike (s.pushEntry m) (t.pushEntry m) := by
  have hs := historyOk_iff.1 h.left
  have ht := historyOk_iff.1 h.right
  refine ⟨historyOk_iff.2 (pushEntry_ringOk hs m), historyOk_iff.2 (pushEntry_ringOk ht m), sameView_iff.2 ⟨?_, ?_⟩⟩
  · obtain ⟨⟨mem, head, rfl⟩, -⟩ := sameView_iff.1 h.view
    rcases lt_or_ge t.histCount.toNat t.cfg.histCap.toNat with hc | hc
    · rw [pushEntry_notFull hc, pushEntry_notFull (s := t.withRing mem head) hc]
      exact ⟨_, _, rfl⟩
    · rw [pushEntry_full hc, pushEntry_full (s := t.withRing mem head) hc]
      exact ⟨_, _, rfl⟩
  · rw [pushEntry_history hs, pushEntry_history ht, h.histCount, h.cfg, h.view.2]

end RingAlike

/-! ## The runs -/

/-- A state change that keeps alike states alike. -/
def RingBlind (run : State → State) : Prop := ∀ s t, RingAlike s t → RingAlike (run s) (run t)

theorem ringBlind_checkPhase (fields : List Word16 → Bytes) : RingBlind (checkPhase fields) := by
  intro s t h
  rw [checkPhase, checkPhase, h.rx]
  split
  · exact h.answered _ _
  · exact h.answered _ _

theorem ringBlind_readPhase (n : Nat) (fields : List Word16 → Bytes) : RingBlind (readPhase n fields) := by
  intro s t h
  rw [readPhase_eq, readPhase_eq, h.cfg, h.answerTo, h.resetAt]
  cases t.answerTo (.read t.cfg.devAddr n) with
  | ok b =>
    dsimp only
    split_ifs
    · exact (h.drawn _).abandoned
    · exact (h.drawn _).answered _ _
    · exact (h.drawn _).answered _ _
  | err c =>
    dsimp only
    split_ifs
    · exact (h.drawn _).abandoned
    · exact (h.drawn _).answered _ _
  | pending => exact h.stillReading

theorem ringBlind_pausePhase (n : Nat) (fields : List Word16 → Bytes) : RingBlind (pausePhase n fields) := by
  intro s t h
  rw [pausePhase, pausePhase, orReset_eq, orReset_eq, h.doPause.resetAt]
  split
  · exact h.doPause.abandoned
  · exact ringBlind_readPhase n fields _ _ h.doPause

theorem ringBlind_busWrite (cmd : Bytes) {next : State → State} (hnext : RingBlind next) :
    RingBlind (busWrite cmd next) := by
  intro s t h
  rw [busWrite_eq, busWrite_eq, h.cfg, h.answerTo, h.resetAt]
  cases t.answerTo (.write t.cfg.devAddr cmd) with
  | ok b =>
    dsimp only
    split_ifs
    · exact (h.drawn _).abandoned
    · exact hnext _ _ (h.written cmd _)
  | err c =>
    dsimp only
    split_ifs
    · exact (h.drawn _).abandoned
    · exact (h.drawn _).answered _ _
  | pending => exact h.waiting _ _

theorem ringBlind_transact (cmd : Bytes) (n : Nat) (fields : List Word16 → Bytes) :
    RingBlind (transact cmd n fields) :=
  ringBlind_busWrite cmd (ringBlind_pausePhase n fields)

theorem ringBlind_writeOnly (cmd : Bytes) : RingBlind (writeOnly cmd) :=
  ringBlind_busWrite cmd fun _ _ h => h.answered _ _

theorem ringBlind_resume (cmd : Bytes) (n : Nat) (fields : List Word16 → Bytes) : RingBlind (resume cmd n fields) := by
  intro s t h
  rw [resume, resume, h.phase]
  cases t.phase with
  | none => exact ringBlind_transact cmd n fields s t h
  | write => exact ringBlind_transact cmd n fields s t h
  | pause => exact ringBlind_pausePhase n fields s t h
  | read => exact ringBlind_readPhase n fields s t h
  | check => exact ringBlind_checkPhase fields s t h

/-- HIST_READ answers the same entry (R166). -/
theorem ringBlind_histRead (k : Word16) : RingBlind (runOf (.histRead k)) := by
  intro s t h
  rw [runOf_histRead, runOf_histRead, h.histCount]
  split
  · exact h.answered _ _
  · rw [h.entryAt (not_le.1 ‹_›)]
    exact h.answered _ _

/-- No instruction shows how the ring holds its sequence. -/
theorem ringBlind_runOf (i : Instr) : RingBlind (runOf i) := by
  intro s t h
  cases i with
  | crc8 | crcCheck => exact h.answered _ _
  | fwVersion | measReady | getMeas => exact ringBlind_transact _ _ _ s t h
  | startCont | startContinuousMeasurement => exact ringBlind_writeOnly _ s t h
  | readFirmwareVersion | pollReady | readMeasurement => exact ringBlind_resume _ _ _ s t h
  | histPush => exact (h.pushEntry _).answered _ _
  | histRead k => exact ringBlind_histRead k s t h
  | histLen => simp only [runOf, h.histCount]; exact h.answered _ _
  | histFull => simp only [runOf, h.isFull]; exact h.answered _ _
  | histCap => simp only [runOf, h.cfg]; exact h.answered _ _
  | schedStep => simp only [runOf, h.stepScheduler.mode]; exact h.stepScheduler.answered _ _
  | schedRead => simp only [runOf, h.updateCount, h.mode]; exact h.answered _ _

/-! ## The instructions and the step -/

theorem exec_ringAlike {i : Instr} {s t s' : State} (h : RingAlike s t) (hs : exec i s = .next s') :
    ∃ t', exec i t = .next t' ∧ RingAlike s' t' := by
  have hl : t.cfg.legal = true := h.cfg ▸ exec_legal hs
  obtain ⟨hi, hp, rfl⟩ | ⟨hi, hp, rfl⟩ | ⟨hi, rfl⟩ := exec_next hs
  · exact ⟨_, (exec_host hi t).trans (serve_idle hl (h.portState ▸ hp)), ringBlind_runOf i _ _ h.accept⟩
  · exact ⟨_, (exec_host hi t).trans (serve_busy hl (h.portState ▸ hp)), h⟩
  · exact ⟨_, (exec_wire hi t).trans (serveWire_legal hl), ringBlind_runOf i _ _ h⟩

theorem rejectBytes_ringAlike {e : DecodeError} {s t s' : State} (h : RingAlike s t)
    (hs : rejectBytes e s = .next s') : ∃ t', rejectBytes e t = .next t' ∧ RingAlike s' t' := by
  obtain ⟨rfl, rfl⟩ | ⟨rfl, rfl⟩ := rejectBytes_next hs
  · exact ⟨_, rfl, h.accept.answered _ _⟩
  · exact ⟨_, rfl, h.accept.answered _ _⟩

theorem step_ringAlike {s t s' : State} (h : RingAlike s t) (hs : step s = .next s') :
    ∃ t', step t = .next t' ∧ RingAlike s' t' := by
  obtain ⟨hl, hstep⟩ := step_next hs
  rw [h.cfg] at hl
  rw [h.resetIn, h.fetch] at hstep
  obtain ⟨hr, rfl⟩ | ⟨hr, ⟨hf, rfl⟩ | ⟨p, b, hf, ⟨i, hd, hrun⟩ | ⟨e, hd, hrun⟩⟩⟩ := hstep
  · exact ⟨_, step_of_resetIn hl hr, h.abandoned⟩
  · exact ⟨_, step_of_fetch_nothing hl hr hf, h⟩
  · rw [step_of_fetch hl hr hf hd]
    exact exec_ringAlike h hrun
  · rw [step_of_fetch_error hl hr hf hd]
    exact rejectBytes_ringAlike h hrun

/-- Settles O38: the step's simulation, with its relation unfolded. -/
theorem ringPlacementHidden : Obligations.RingPlacementHidden := by
  intro s t s' hs ht hview hstep
  obtain ⟨t', ht', h⟩ := step_ringAlike ⟨hs, ht, hview⟩ hstep
  exact ⟨t', ht', h.view, h.left, h.right⟩

end Sys2Proof.Machine
end

section
/-! SUPPORT and PROOF. The invariant (10_state.md R21, R22, 30_encoding.md R83, 41_protocol.md R122, R127): each step
from a state of it answers a next state of it. The history and the scheduler follow from what a step can do
(`step_ends`); the framer and the record of bus accesses are carried together, as `Framed`. -/

namespace Sys2Proof.Machine

/-! ## The record of bus accesses -/

/-- Where a state's record of bus accesses stands. -/
def stand (s : State) : Option BusStand := busStand s.cfg .free s.events

theorem traceOk_eq (s : State) : traceOk s = (stand s).isSome := rfl

/-- One more event moves the stand by that event. -/
theorem busStand_concat (c : Config) (b : BusStand) (es : List Event) (e : Event) :
    busStand c b (es ++ [e]) = (busStand c b es).bind fun b' => b'.after c e := by
  induction es generalizing b with
  | nil =>
    simp only [List.nil_append, busStand, Option.bind_some]
    cases b.after c e <;> rfl
  | cons e' rest ih =>
    simp only [List.cons_append, busStand]
    cases b.after c e' with
    | none => rfl
    | some b' => exact ih b'

theorem stand_congr {s u : State} (hc : u.cfg = s.cfg) (he : u.events = s.events) : stand u = stand s := by
  rw [stand, stand, hc, he]

theorem stand_of_event {s u : State} {e : Event} (hc : u.cfg = s.cfg) (he : u.events = s.events ++ [e]) :
    stand u = (stand s).bind fun b => b.after s.cfg e := by
  rw [stand, hc, he, busStand_concat]; rfl

/-- A wire command may be written at any time (R83). -/
theorem after_write_ok {c : Config} {cmd : Bytes} (hc : isWireCommand cmd = true) (b : BusStand) :
    b.after c (.write c.devAddr cmd .ok) = some (.written cmd) := by
  simp [BusStand.after, hc]

theorem after_write_err {c : Config} {cmd : Bytes} (hc : isWireCommand cmd = true) (b : BusStand) (x : TransportCause) :
    b.after c (.write c.devAddr cmd (.err x)) = some .free := by
  simp [BusStand.after, hc]

theorem after_resp (c : Config) (b : BusStand) (st : Status) (fields : Bytes) :
    b.after c (.resp st fields) = some .free := by
  cases b <;> rfl

theorem after_pause {c : Config} {cmd : Bytes} (h : 0 < responseLength cmd) :
    (BusStand.written cmd).after c (.pause c.tPause) = some (.paused cmd) := by
  simp [BusStand.after, h]

theorem after_read {c : Config} {cmd : Bytes} (o : ReadOutcome) :
    (BusStand.paused cmd).after c (.read c.devAddr (responseLength cmd) o) = some .free := by
  simp [BusStand.after]

/-! ## The framer and the record together -/

/-- The framer and the record of bus accesses keep the protocol. -/
structure Framed (s : State) : Prop where
  framer : framerOk s = true
  trace : (stand s).isSome = true

/-- An Idle port with nothing in the framer fits every record of the protocol. -/
theorem framed_abandoned {s : State} (h : (stand s).isSome = true) : Framed (abandoned s) := ⟨rfl, h⟩

/-- A response may follow every record of the protocol. -/
theorem framed_answeredWith {s : State} (h : (stand s).isSome = true) (st : Status) (fields : Bytes) :
    Framed (answeredWith s st fields) := by
  refine ⟨rfl, ?_⟩
  obtain ⟨b, hb⟩ := Option.isSome_iff_exists.1 h
  have hfree : stand (answeredWith s st fields) = some .free := by
    rw [stand_of_event (s := s) (e := .resp st fields) (u := answeredWith s st fields) rfl rfl, hb, Option.bind_some,
      after_resp]
  exact Option.isSome_of_eq_some hfree

/-- After the write of a wire command has returned, the record goes on from the command, or is free if it failed. -/
theorem stand_write_ok {s u : State} {cmd : Bytes} (h : (stand s).isSome = true) (hc : isWireCommand cmd = true)
    (hcfg : u.cfg = s.cfg) (he : u.events = s.events ++ [.write s.cfg.devAddr cmd .ok]) :
    stand u = some (.written cmd) := by
  obtain ⟨b, hb⟩ := Option.isSome_iff_exists.1 h
  rw [stand_of_event hcfg he, hb, Option.bind_some, after_write_ok hc]

theorem stand_write_err {s u : State} {cmd : Bytes} {x : TransportCause} (h : (stand s).isSome = true)
    (hc : isWireCommand cmd = true) (hcfg : u.cfg = s.cfg)
    (he : u.events = s.events ++ [.write s.cfg.devAddr cmd (.err x)]) : stand u = some .free := by
  obtain ⟨b, hb⟩ := Option.isSome_iff_exists.1 h
  rw [stand_of_event hcfg he, hb, Option.bind_some, after_write_err hc]

/-- The pause after the write of a command with a response (R127). -/
theorem stand_doPause {s : State} {cmd : Bytes} (h : stand s = some (.written cmd)) (hlen : 0 < responseLength cmd) :
    stand s.doPause = some (.paused cmd) := by
  rw [stand_of_event (State.doPause_cfg s) (State.doPause_events s), h, Option.bind_some, after_pause hlen]

/-- The read of the whole response after the pause (R59, R122). -/
theorem stand_read {s u : State} {cmd : Bytes} {o : ReadOutcome} (h : stand s = some (.paused cmd))
    (hcfg : u.cfg = s.cfg) (he : u.events = s.events ++ [.read s.cfg.devAddr (responseLength cmd) o]) :
    stand u = some .free := by
  rw [stand_of_event hcfg he, h, Option.bind_some, after_read]

/-! ## The transactions -/

/-- The framer waits for the write of a wire command, which may be written next. -/
theorem framed_waiting_write {s : State} {cmd : Bytes} (hstand : (stand s).isSome = true) (hrx : s.rx = [])
    (hc : isWireCommand cmd = true) : Framed (waiting s .write cmd) :=
  ⟨by simp [framerOk, waiting, hc, hrx], hstand⟩

/-- The framer stands between the pause and the read of its command's response (R122). -/
structure ReadyToRead (s : State) : Prop where
  port : s.portState = .busy
  command : isWireCommand s.cmd = true
  rx : s.rx = []
  paused : stand s = some (.paused s.cmd)

theorem ReadyToRead.framed_readPhase {s : State} (h : ReadyToRead s) {n : Nat} (hn : responseLength s.cmd = n)
    (fields : List Word16 → Bytes) : Framed (readPhase n fields s) := by
  subst hn
  have hread : ∀ o, (stand (drawn s (.read s.cfg.devAddr (responseLength s.cmd) o))).isSome = true := fun o =>
    Option.isSome_of_eq_some (stand_read (o := o) h.paused rfl rfl)
  rw [readPhase_eq]
  cases s.answerTo (.read s.cfg.devAddr (responseLength s.cmd)) with
  | ok b =>
    dsimp only
    split_ifs
    · exact framed_abandoned (hread _)
    · exact framed_answeredWith (hread _) _ _
    · exact framed_answeredWith (hread _) _ _
  | err c =>
    dsimp only
    split_ifs
    · exact framed_abandoned (hread _)
    · exact framed_answeredWith (hread _) _ _
  | pending =>
    have hpaused : busStand s.cfg .free s.events = some (.paused s.cmd) := h.paused
    exact ⟨by simp [framerOk, h.port, h.command, h.rx, hpaused], by simp [stand, hpaused]⟩

section Write

variable {s : State} {cmd : Bytes} (hstand : (stand s).isSome = true) (hrx : s.rx = []) (hc : isWireCommand cmd = true)
include hstand hrx hc

/-- A written command with a response is ready to be read after its pause. -/
theorem readyToRead_of_write (hlen : 0 < responseLength cmd) :
    ReadyToRead ((s.enterWrite cmd).consume.record (.write s.cfg.devAddr cmd .ok)).doPause :=
  ⟨rfl, hc, hrx, stand_doPause (stand_write_ok hstand hc rfl rfl) hlen⟩

/-- A write that goes on as the protocol asks keeps the protocol, however it returns. -/
theorem framed_busWrite {next : State → State}
    (hnext : Framed (next ((s.enterWrite cmd).consume.record (.write s.cfg.devAddr cmd .ok)))) :
    Framed (busWrite cmd next s) := by
  rw [busWrite_eq]
  cases s.answerTo (.write s.cfg.devAddr cmd) with
  | ok b =>
    dsimp only
    split_ifs
    · exact framed_abandoned (Option.isSome_of_eq_some (stand_write_ok hstand hc rfl rfl))
    · exact hnext
  | err c =>
    have herr : (stand (drawn s (.write s.cfg.devAddr cmd (.err c)))).isSome = true :=
      Option.isSome_of_eq_some (stand_write_err hstand hc rfl rfl)
    dsimp only
    split_ifs
    · exact framed_abandoned herr
    · exact framed_answeredWith herr _ _
  | pending => exact framed_waiting_write hstand hrx hc

theorem framed_transact {n : Nat} (hn : responseLength cmd = n) (hlen : 0 < n) (fields : List Word16 → Bytes) :
    Framed (transact cmd n fields s) := by
  have hready := readyToRead_of_write hstand hrx hc (hn ▸ hlen)
  refine framed_busWrite hstand hrx hc ?_
  rw [pausePhase, orReset_eq]
  split
  · exact framed_abandoned (Option.isSome_of_eq_some hready.paused)
  · exact hready.framed_readPhase hn fields

theorem framed_writeOnly : Framed (writeOnly cmd s) := by
  have hwritten : stand ((s.enterWrite cmd).consume.record (.write s.cfg.devAddr cmd .ok)) = some (.written cmd) :=
    stand_write_ok hstand hc rfl rfl
  exact framed_busWrite hstand hrx hc (framed_answeredWith (Option.isSome_of_eq_some hwritten) _ _)

end Write

/-! ## The instructions -/

/-- The bytes of a well-formed wire command are one of the four (R80). -/
theorem isWireCommand_encode {i : Instr} (hp : i.port = .wire) (hi : i.wellFormed = true) :
    isWireCommand (encode i) = true := by
  cases i with
  | startContinuousMeasurement p c =>
    have hd : decodeWire (encode (.startContinuousMeasurement p c)) = .ok (.startContinuousMeasurement p c) :=
      decodeWire_ok.2 (.inr (.inr (.inr ⟨hi8 p, lo8 p, c, rfl, by rw [be16_hi8_lo8]⟩)))
    rw [isWireCommand, hd]
    exact hi
  | readFirmwareVersion | pollReady | readMeasurement => rfl
  | _ => cases hp

/-- A host request from an empty framer keeps the protocol. -/
theorem framed_runOf_host {i : Instr} {s : State} (hi : i.port = .host) (hstand : (stand s).isSome = true)
    (hrx : s.rx = []) : Framed (runOf i s) := by
  cases i with
  | fwVersion | measReady | getMeas => exact framed_transact hstand hrx rfl rfl (by decide) _
  | startCont p =>
    exact framed_writeOnly hstand hrx (isWireCommand_encode rfl (by simp [Instr.wellFormed]))
  | histRead k =>
    rw [runOf_histRead]
    split
    · exact framed_answeredWith hstand _ _
    · exact framed_answeredWith hstand _ _
  | histPush co2 temp hum =>
    have hpush : stand (s.pushEntry { co2 := co2, temp := temp, hum := hum }) = stand s :=
      stand_congr (State.pushEntry_cfg s _) (State.pushEntry_events s _)
    exact framed_answeredWith (hpush ▸ hstand) _ _
  | schedStep => exact framed_answeredWith (s := s.stepScheduler) hstand _ _
  | crc8 | crcCheck | histLen | histFull | histCap | schedRead => exact framed_answeredWith hstand _ _
  | readFirmwareVersion | pollReady | readMeasurement | startContinuousMeasurement => cases hi

/-- The framer waits for its write or for its read (R56). -/
def Waits (s : State) : Prop := s.phase = .write ∨ s.phase = .read ∧ ReadyToRead s

/-- A transaction that goes on from where it waits keeps the protocol. -/
theorem framed_resume {s : State} {n : Nat} (hw : Waits s) (hstand : (stand s).isSome = true) (hrx : s.rx = [])
    (hc : isWireCommand s.cmd = true) (hn : responseLength s.cmd = n) (hlen : 0 < n)
    (fields : List Word16 → Bytes) : Framed (resume s.cmd n fields s) := by
  unfold resume
  obtain hph | ⟨hph, hready⟩ := hw
  · rw [hph]
    exact framed_transact hstand hrx hc hn hlen fields
  · rw [hph]
    exact hready.framed_readPhase hn fields

/-- The framer's own command, where the framer waits, keeps the protocol. -/
theorem framed_runOf_wire {i : Instr} {s : State} (hi : i.port = .wire) (hcmd : encode i = s.cmd) (hw : Waits s)
    (hstand : (stand s).isSome = true) (hrx : s.rx = []) (hc : isWireCommand s.cmd = true) : Framed (runOf i s) := by
  cases i with
  | readFirmwareVersion | pollReady | readMeasurement =>
    simp only [runOf, hcmd]
    exact framed_resume hw hstand hrx hc (by rw [← hcmd]; rfl) (by decide) _
  | startContinuousMeasurement p c => exact framed_writeOnly hstand hrx (hcmd ▸ hc)
  | _ => cases hi

/-! ## The framer's states between steps -/

/-- An Idle port of the invariant has an empty framer (R24). -/
theorem framerOk_idle {s : State} (h : framerOk s = true) (hp : s.portState = .idle) : s.rx = [] := by
  unfold framerOk at h
  rw [hp] at h
  cases hph : s.phase with
  | none =>
    rw [hph] at h
    simp only [Bool.and_eq_true, decide_eq_true_eq] at h
    exact h.2
  | _ => rw [hph] at h; cases h

/-- A Busy port of the invariant waits for a bus access of its wire command (R56, R122). -/
theorem framerOk_busy {s : State} (h : framerOk s = true) (hp : s.portState = .busy) :
    isWireCommand s.cmd = true ∧ s.rx = [] ∧ Waits s := by
  unfold framerOk at h
  rw [hp] at h
  cases hph : s.phase with
  | write =>
    rw [hph] at h
    simp only [Bool.and_eq_true, decide_eq_true_eq] at h
    obtain ⟨hc, hrx⟩ := h
    exact ⟨hc, hrx, .inl hph⟩
  | read =>
    rw [hph] at h
    simp only [Bool.and_eq_true, decide_eq_true_eq] at h
    obtain ⟨⟨hc, hrx⟩, hstand⟩ := h
    exact ⟨hc, hrx, .inr ⟨hph, hp, hc, hrx, hstand⟩⟩
  | _ => rw [hph] at h; cases h

/-- A wire command decodes (R80). -/
theorem decodeWire_of_isWireCommand {cmd : Bytes} (h : isWireCommand cmd = true) : ∃ i, decodeWire cmd = .ok i := by
  unfold isWireCommand at h
  cases hd : decodeWire cmd with
  | ok i => exact ⟨i, rfl⟩
  | error e => rw [hd] at h; cases h

/-! ## The step -/

/-- Whatever a framed step runs, the block answers it: no bytes it finds are left without a meaning (R83, R207). -/
theorem step_answers {s : State} (hl : s.cfg.legal = true) (hs : Framed s) : ∃ t, step s = .next t := by
  cases hr : s.resetIn with
  | true => exact ⟨_, step_of_resetIn hl hr⟩
  | false =>
    cases hf : fetch s with
    | nothing => exact ⟨_, step_of_fetch_nothing hl hr hf⟩
    | bytes p b =>
      cases hd : decode p b with
      | ok i =>
        rw [step_of_fetch hl hr hf hd]
        exact exec_answers i hl
      | error e =>
        rw [step_of_fetch_error hl hr hf hd]
        obtain ⟨-, rfl, -⟩ | ⟨hp, rfl, rfl⟩ := fetch_bytes hf
        · obtain rfl | rfl := decodeHost_error hd
          · exact ⟨_, rfl⟩
          · exact ⟨_, rfl⟩
        · obtain ⟨i, hi⟩ := decodeWire_of_isWireCommand (framerOk_busy hs.framer hp).1
          cases hi.symm.trans hd

/-- Every step keeps the framer and the record of bus accesses in the protocol. -/
theorem step_framed {s t : State} (hs : Framed s) (h : step s = .next t) : Framed t := by
  obtain ⟨-, ⟨-, rfl⟩ | ⟨-, ⟨-, rfl⟩ | ⟨p, b, hf, ⟨i, hd, hrun⟩ | ⟨e, -, hreject⟩⟩⟩⟩ := step_next h
  · exact framed_abandoned hs.trace
  · exact hs
  · obtain ⟨hp, rfl, -⟩ | ⟨hp, rfl, rfl⟩ := fetch_bytes hf
    · obtain ⟨hi, -⟩ := encode_of_decodeHost hd
      obtain ⟨-, -, rfl⟩ | ⟨-, -, rfl⟩ | ⟨hi', -⟩ := exec_next hrun
      · have hrx : s.rx = [] := framerOk_idle hs.framer hp
        exact framed_runOf_host (s := s.accept) hi hs.trace hrx
      · exact hs
      · rw [hi] at hi'; cases hi'
    · obtain ⟨hi, hcmd⟩ := encode_of_decodeWire hd
      obtain ⟨hc, hrx, hw⟩ := framerOk_busy hs.framer hp
      obtain ⟨hi', -⟩ | ⟨hi', -⟩ | ⟨-, rfl⟩ := exec_next hrun
      · rw [hi] at hi'; cases hi'
      · rw [hi] at hi'; cases hi'
      · exact framed_runOf_wire hi hcmd hw hs.trace hrx hc
  · obtain ⟨-, rfl⟩ | ⟨-, rfl⟩ := rejectBytes_next hreject
    · exact framed_answeredWith hs.trace _ _
    · exact framed_answeredWith hs.trace _ _

theorem FrameChange.historyOk {s s' : State} (h : FrameChange s s') (hs : historyOk s = true) :
    historyOk s' = true := by
  obtain rfl | ⟨f, i, -, -, -, rfl⟩ := h
  · exact hs
  · obtain hnone | ⟨co2, temp, hum, rfl⟩ | rfl := ownChange_cases i s
    · rwa [hnone]
    · exact historyOk_iff.2 (pushEntry_ringOk (historyOk_iff.1 hs) _)
    · exact (SameRing.historyOk ⟨rfl, rfl, rfl, rfl⟩).trans hs

/-- Every step keeps the ring well formed (R22). -/
theorem step_historyOk {s t : State} (hs : historyOk s = true) (h : step s = .next t) : historyOk t = true := by
  have hpos : 0 < t.cfg.histCap.toNat := by
    rw [configurationNeverChanges s t h]
    exact Nat.zero_lt_of_lt (historyOk_iff.1 hs).head
  obtain ⟨-, rfl⟩ | ⟨s', hchange, hends⟩ := step_ends h
  · exact historyOk_abandoned hpos
  obtain ⟨-, -, hslot, hhead, hcount⟩ | ⟨-, ht⟩ := hends.block
  · exact (SameRing.historyOk ⟨hends.cfg, hslot, hhead, hcount⟩).trans (hchange.historyOk hs)
  · rw [ht]
    exact historyOk_abandoned hpos

/-- The invariant, part by part. -/
theorem inv_iff {s : State} :
    Inv s = true ↔ s.cfg.legal = true ∧ historyOk s = true ∧ schedulerOk s = true ∧ Framed s := by
  simp only [Inv, Bool.and_eq_true, traceOk_eq]
  constructor
  · rintro ⟨⟨⟨⟨hl, hh⟩, hsched⟩, hf⟩, ht⟩
    exact ⟨hl, hh, hsched, hf, ht⟩
  · rintro ⟨hl, hh, hsched, hf, ht⟩
    exact ⟨⟨⟨⟨hl, hh⟩, hsched⟩, hf⟩, ht⟩

/-- Settles O53: a framed state's step answers, and each part of the invariant is kept by every step. -/
theorem stepKeepsInvariant : Obligations.StepKeepsInvariant := by
  intro s hs
  obtain ⟨hl, hh, hsched, hframed⟩ := inv_iff.1 hs
  obtain ⟨t, ht⟩ := step_answers hl hframed
  have hlegal : t.cfg.legal = true := by rwa [configurationNeverChanges s t ht]
  exact ⟨t, ht, inv_iff.2 ⟨hlegal, step_historyOk hh ht, step_schedulerOk hsched ht, step_framed hframed ht⟩⟩

end Sys2Proof.Machine
end

section
/-! SUPPORT and PROOF. The Busy framer (20_memory.md R56, R60, 30_encoding.md R74): a step runs its wire command alone,
and a primitive that has not returned leaves the request where it stands. -/

namespace Sys2Proof.Machine

/-! ## The step of a Busy framer -/

/-- In a framer phase a step finds the framer's command (R60, R122). -/
theorem fetch_busy {s : State} (hp : s.portState = .busy) (hph : s.phase ≠ .none) :
    fetch s = .bytes .wire s.cmd := by
  unfold fetch
  rw [hp]
  cases hs : s.phase with
  | none => exact absurd hs hph
  | write | pause | read | check => rfl

/-- Busy without a framer phase, there is nothing to run. -/
theorem fetch_busy_none {s : State} (hp : s.portState = .busy) (hph : s.phase = .none) : fetch s = .nothing := by
  simp [fetch, hp, hph]

/-- Settles O2: the framer's command is what the step finds, and it decodes. -/
theorem stepRunsWireCommand : Obligations.StepRunsWireCommand := by
  intro s i hl hr hp hph hd
  exact step_of_fetch hl hr (fetch_busy hp hph) hd

/-- The run that such a step makes. -/
theorem step_busy_of_decode {s : State} {i : Instr} (hl : s.cfg.legal = true) (hr : s.resetIn = false)
    (hp : s.portState = .busy) (hph : s.phase ≠ .none) (hd : decodeWire s.cmd = .ok i) :
    step s = .next (runOf i s) := by
  obtain ⟨hi, -⟩ := encode_of_decodeWire hd
  rw [stepRunsWireCommand s i hl hr hp hph hd, exec_wire hi, serveWire_legal hl]

/-- Bytes are rejected on the wire only for being none of the four commands (R83). -/
theorem decodeWire_error {b : Bytes} {e : DecodeError} (h : decodeWire b = .error e) : e = .notAWireCommand := by
  unfold decodeWire at h
  split at h
  · split at h
    · cases h
    · cases h
    · cases h
    · cases h; rfl
  · split at h
    · cases h
    · cases h; rfl
  · cases h; rfl

/-- Everything a step of a Busy block can answer with no reset asserted before it: it stays where no framer phase is
enabled, else it runs the framer's command. -/
theorem step_busy_next {s t : State} (hp : s.portState = .busy) (hr : s.resetIn = false) (h : step s = .next t) :
    s.cfg.legal = true ∧
      (s.phase = .none ∧ t = s ∨ s.phase ≠ .none ∧ ∃ i, decodeWire s.cmd = .ok i ∧ t = runOf i s) := by
  obtain ⟨hl, -⟩ := step_next h
  refine ⟨hl, ?_⟩
  by_cases hph : s.phase = .none
  · rw [step_of_fetch_nothing hl hr (fetch_busy_none hp hph)] at h
    cases h
    exact .inl ⟨hph, rfl⟩
  · refine .inr ⟨hph, ?_⟩
    cases hd : decodeWire s.cmd with
    | ok i =>
      rw [step_busy_of_decode hl hr hp hph hd] at h
      cases h
      exact ⟨i, rfl, rfl⟩
    | error e =>
      rw [step_of_fetch_error hl hr (fetch_busy hp hph) hd, decodeWire_error hd] at h
      cases h

/-! ## A primitive that has not returned (R56) -/

/-- A transaction of either kind waits for its write. -/
theorem busWrite_pending {cmd : Bytes} {next : State → State} {s : State}
    (h : s.answerTo (.write s.cfg.devAddr cmd) = .pending) : busWrite cmd next s = waiting s .write cmd := by
  rw [busWrite_eq, h]

/-- A transaction waits for its read with the command it holds. -/
theorem readPhase_pending {n : Nat} {fields : List Word16 → Bytes} {s : State} (hp : s.portState = .busy)
    (h : s.answerTo (.read s.cfg.devAddr n) = .pending) : readPhase n fields s = waiting s .read s.cmd := by
  rw [readPhase_eq, h]
  simp [waiting, State.consume, hp]

/-- A host request that is accepted runs (R74). -/
theorem exec_idle {i : Instr} {s : State} (hi : i.port = .host) (hl : s.cfg.legal = true)
    (hp : s.portState = .idle) : exec i s = .next (runOf i s.accept) := by
  rw [exec_host hi, serve_idle hl hp]

/-- A request that begins with a write waits for it in phase WRITE. -/
theorem exec_pending_write {i : Instr} {cmd : Bytes} {next : State → State} {s : State} (hi : i.port = .host)
    (hrun : runOf i = busWrite cmd next) (hl : s.cfg.legal = true) (hp : s.portState = .idle)
    (hw : s.answerTo (.write s.cfg.devAddr cmd) = .pending) : exec i s = .next (waiting s .write cmd) := by
  have haccept : s.accept.answerTo (.write s.accept.cfg.devAddr cmd) = .pending := hw
  rw [exec_idle hi hl hp, hrun, busWrite_pending haccept]
  rfl

/-- A request whose command was written waits for its read in phase READ. -/
theorem exec_pending_read {i : Instr} {cmd x : Bytes} {n : Nat} {fields : List Word16 → Bytes} {s : State}
    (hi : i.port = .host) (hrun : runOf i = transact cmd n fields) (hl : s.cfg.legal = true)
    (hp : s.portState = .idle) (hr : s.resetAt = none ∨ s.resetAt = some .afterRead)
    (hw : s.answerTo (.write s.cfg.devAddr cmd) = .ok x)
    (hread : (wroteAndPaused s cmd).answerTo (.read s.cfg.devAddr n) = .pending) :
    exec i s = .next (waiting (wroteAndPaused s cmd) .read cmd) := by
  have haccept : (wroteAndPaused s.accept cmd).answerTo (.read s.accept.cfg.devAddr n) = .pending := hread
  rw [exec_idle hi hl hp, hrun, transact_written (s := s.accept) hw hr, haccept]
  rfl

/-- Settles O25: each protocol request begins with the write of its command, and the three with a response go on to
their read. -/
theorem pendingPrimitiveWaits : Obligations.PendingPrimitiveWaits := by
  constructor
  · intro s i cmd hl hp hi hw
    simp only [List.mem_cons, List.not_mem_nil, or_false, Prod.mk.injEq] at hi
    rcases hi with (⟨rfl, rfl⟩ | ⟨rfl, rfl⟩ | ⟨rfl, rfl⟩) | ⟨p, rfl, rfl⟩ <;>
      exact exec_pending_write rfl rfl hl hp hw
  · intro s i cmd n x hl hp hr hi hw hread
    simp only [List.mem_cons, List.not_mem_nil, or_false, Prod.mk.injEq] at hi
    rcases hi with ⟨rfl, rfl, rfl⟩ | ⟨rfl, rfl, rfl⟩ | ⟨rfl, rfl, rfl⟩ <;>
      exact exec_pending_read rfl rfl hl hp hr hw hread

/-! ## Waiting for any number of steps -/

/-- The next known answer is the oracle's answer to whatever is asked (R55). -/
theorem State.answerTo_of_answers {s : State} {a : Answer} {rest : List Answer} (h : s.answers = a :: rest)
    (op : BusOp) : s.answerTo op = a := by
  simp [State.answerTo, h]

/-- A transaction that waits for a primitive asks again and waits on (R61). -/
theorem resume_pending {n : Nat} {fields : List Word16 → Bytes} {s : State} (hp : s.portState = .busy)
    (hph : s.phase = .write ∨ s.phase = .read) (ha : ∀ op, s.answerTo op = .pending) :
    resume s.cmd n fields s = waiting s s.phase s.cmd := by
  unfold resume
  obtain hph | hph := hph
  · rw [hph]
    exact busWrite_pending (ha _)
  · rw [hph]
    exact readPhase_pending hp (ha _)

/-- The framer's command leaves a waiting framer waiting with that command. -/
theorem runOf_pending {i : Instr} {s : State} (hd : decodeWire s.cmd = .ok i) (hp : s.portState = .busy)
    (hph : s.phase = .write ∨ s.phase = .read) (ha : ∀ op, s.answerTo op = .pending) :
    ∃ ph, (ph = .write ∨ ph = .read) ∧ runOf i s = waiting s ph s.cmd := by
  obtain ⟨hi, hcmd⟩ := encode_of_decodeWire hd
  cases i with
  | readFirmwareVersion | pollReady | readMeasurement =>
    refine ⟨s.phase, hph, ?_⟩
    simp only [runOf, hcmd]
    exact resume_pending hp hph ha
  | startContinuousMeasurement p c =>
    refine ⟨.write, .inl rfl, ?_⟩
    simp only [runOf, hcmd]
    exact busWrite_pending (ha _)
  | _ => cases hi

/-- A run goes on from the next state of its first step. -/
theorem run_succ_of_step {s u : State} (h : step s = .next u) (k : Nat) :
    Host.Core.run Sys2Proof.core (k + 1) s = Host.Core.run Sys2Proof.core k u := by
  have hcore : Sys2Proof.core.step s = .next u := h
  simp only [Host.Core.run, hcore]

/-- Settles O26, by induction on the number of steps: one step of a waiting framer leaves it waiting, with nothing
recorded. -/
theorem stuckWhilePending : Obligations.StuckWhilePending := by
  intro k
  induction k with
  | zero =>
    intro s i _ _ hp _ _ _
    exact ⟨s, rfl, hp, rfl, rfl, rfl, rfl, rfl, rfl, rfl, rfl⟩
  | succ k ih =>
    intro s i hl hr hp hph hd ha
    have hphase : s.phase ≠ .none := by rcases hph with h | h <;> simp [h]
    obtain ⟨ph, hph', hrun⟩ := runOf_pending hd hp hph (State.answerTo_of_answers ha)
    have hstep : step s = .next (waiting s ph s.cmd) := by rw [step_busy_of_decode hl hr hp hphase hd, hrun]
    have hrest : (waiting s ph s.cmd).answers = List.replicate k .pending := congrArg List.tail ha
    obtain ⟨t, ht, hbusy, hevents, hpc, hcmd, hblock⟩ := ih (waiting s ph s.cmd) i hl hr rfl hph' hd hrest
    exact ⟨t, (run_succ_of_step hstep k).trans ht, hbusy, hevents, hpc, hcmd, hblock⟩

end Sys2Proof.Machine
end

section
/-! SUPPORT and PROOF. A Busy block does not look at the host's frames (20_memory.md R60, 30_encoding.md R74): what the
framer runs is the same whatever the host presents. -/

namespace Sys2Proof.Machine

/-- `s` with another sequence of host frames. -/
def State.withFrames (s : State) (frames : List Bytes) : State := { s with program := frames }

/-- A state change that neither reads nor writes the host's frames. -/
def FrameBlind (run : State → State) : Prop :=
  ∀ s frames, run (s.withFrames frames) = (run s).withFrames frames

section Fields

variable (s : State) (frames : List Bytes)

@[simp] theorem State.withFrames_cfg : (s.withFrames frames).cfg = s.cfg := rfl
@[simp] theorem State.withFrames_phase : (s.withFrames frames).phase = s.phase := rfl
@[simp] theorem State.withFrames_rx : (s.withFrames frames).rx = s.rx := rfl
@[simp] theorem State.withFrames_resetAt : (s.withFrames frames).resetAt = s.resetAt := rfl
@[simp] theorem State.answerTo_withFrames (op : BusOp) : (s.withFrames frames).answerTo op = s.answerTo op := rfl

end Fields

/-! ## The operations of a transaction -/

theorem frameBlind_orReset (p : ResetPoint) {next : State → State} (hnext : FrameBlind next) :
    FrameBlind (orReset p next) := by
  intro s frames
  rw [orReset_eq, orReset_eq, State.withFrames_resetAt]
  split
  · rfl
  · exact hnext s frames

theorem frameBlind_busWrite (cmd : Bytes) {next : State → State} (hnext : FrameBlind next) :
    FrameBlind (busWrite cmd next) := by
  intro s frames
  rw [busWrite_eq, busWrite_eq, State.withFrames_cfg, State.answerTo_withFrames, State.withFrames_resetAt]
  cases s.answerTo (.write s.cfg.devAddr cmd) with
  | ok b =>
    dsimp only
    split
    · rfl
    · exact hnext ((s.enterWrite cmd).consume.record (.write s.cfg.devAddr cmd .ok)) frames
  | err c => dsimp only; split <;> rfl
  | pending => rfl

theorem frameBlind_busRead (n : Nat) {next : State → State} (hnext : FrameBlind next) :
    FrameBlind (busRead n next) := by
  intro s frames
  rw [busRead_eq, busRead_eq, State.withFrames_cfg, State.answerTo_withFrames, State.withFrames_resetAt]
  cases s.answerTo (.read s.cfg.devAddr n) with
  | ok b =>
    dsimp only
    split
    · rfl
    · exact hnext
        ((s.enterRead.consume.record (.read s.cfg.devAddr n (.ok (exactly n b)))).enterCheck (exactly n b)) frames
  | err c => dsimp only; split <;> rfl
  | pending => rfl

theorem frameBlind_respond (st : Status) (fields : Bytes) : FrameBlind fun s => s.respond st fields :=
  fun _ _ => rfl

theorem frameBlind_checkPhase (fields : List Word16 → Bytes) : FrameBlind (checkPhase fields) := by
  intro s frames
  rw [checkPhase, checkPhase, State.withFrames_rx]
  split
  · exact frameBlind_respond _ _ s frames
  · exact frameBlind_respond _ _ s frames

/-! ## The transactions and the wire commands -/

theorem frameBlind_readPhase (n : Nat) (fields : List Word16 → Bytes) : FrameBlind (readPhase n fields) :=
  frameBlind_busRead n (frameBlind_checkPhase fields)

theorem frameBlind_pausePhase (n : Nat) (fields : List Word16 → Bytes) : FrameBlind (pausePhase n fields) :=
  fun s frames => frameBlind_orReset .afterPause (frameBlind_readPhase n fields) s.doPause frames

theorem frameBlind_transact (cmd : Bytes) (n : Nat) (fields : List Word16 → Bytes) :
    FrameBlind (transact cmd n fields) :=
  frameBlind_busWrite cmd (frameBlind_pausePhase n fields)

theorem frameBlind_writeOnly (cmd : Bytes) : FrameBlind (writeOnly cmd) :=
  frameBlind_busWrite cmd (frameBlind_respond .ok [])

theorem frameBlind_resume (cmd : Bytes) (n : Nat) (fields : List Word16 → Bytes) :
    FrameBlind (resume cmd n fields) := by
  intro s frames
  rw [resume, resume, State.withFrames_phase]
  cases s.phase with
  | none => exact frameBlind_transact cmd n fields s frames
  | write => exact frameBlind_transact cmd n fields s frames
  | pause => exact frameBlind_pausePhase n fields s frames
  | read => exact frameBlind_readPhase n fields s frames
  | check => exact frameBlind_checkPhase fields s frames

theorem frameBlind_runOf {i : Instr} (hi : i.port = .wire) : FrameBlind (runOf i) := by
  cases i with
  | readFirmwareVersion | pollReady | readMeasurement => exact frameBlind_resume _ _ _
  | startContinuousMeasurement => exact frameBlind_writeOnly _
  | _ => cases hi

/-! ## The step -/

/-- Settles O28: a Busy step stays or runs a wire command, and neither looks at the host's frames. -/
theorem busyStepIgnoresHostFrames : Obligations.BusyStepIgnoresHostFrames := by
  intro s t frames hp h hr
  change step (s.withFrames frames) = .next (t.withFrames frames)
  obtain ⟨hl, ⟨hph, rfl⟩ | ⟨hph, i, hd, rfl⟩⟩ := step_busy_next hp hr h
  · exact step_of_fetch_nothing hl hr (fetch_busy_none hp hph)
  · obtain ⟨hi, -⟩ := encode_of_decodeWire hd
    rw [← frameBlind_runOf hi]
    exact step_busy_of_decode hl hr hp hph hd

end Sys2Proof.Machine
end

section
/-! SUPPORT and PROOF. The encodings round trip (30_encoding.md R71, R72, R80, R83, R85): `decode` and `encode` undo each
other at each level, on the well-formed instructions. -/

namespace Sys2Proof

open Machine

/-! ## Decoding what was encoded -/

/-- A big-endian operand decodes to itself (R72). -/
theorem decodeH16_bytes16 (i : Word16 → Instr) (w : Word16) : decodeH16 i (bytes16 w) = .ok (i w) :=
  decodeH16_ok.2 ⟨hi8 w, lo8 w, rfl, by rw [be16_hi8_lo8]⟩

/-- Three big-endian patterns decode to themselves (R72). -/
theorem decodeHM_bytes32 (i : Word32 → Word32 → Word32 → Instr) (x y z : Word32) :
    decodeHM i (bytes32 x ++ (bytes32 y ++ bytes32 z)) = .ok (i x y z) :=
  decodeHM_ok.2 ⟨_, _, _, _, _, _, _, _, _, _, _, _, rfl, by simp only [be32_bytes32]⟩

/-- The count byte holds the length of any data that a count byte can (R71). -/
theorem count_toNat {d : Bytes} (h : d.length ≤ 255) : (BitVec.ofNat 8 d.length).toNat = d.length := by
  rw [BitVec.toNat_ofNat, Nat.mod_eq_of_lt (by omega)]

/-- Settles O6: a format accepts the operand bytes that the encoder lays out, and the opcode or the command word tells
the instruction. -/
theorem decodeOfEncode : Obligations.DecodeOfEncode := by
  intro i hi
  cases i with
  | crc8 d =>
    have hd : d.length ≤ 255 := of_decide_eq_true hi
    exact decodeHCRC_ok.2 ⟨_, d, rfl, (count_toNat hd).symm, rfl⟩
  | startCont p => exact decodeH16_bytes16 .startCont p
  | histRead k => exact decodeH16_bytes16 .histRead k
  | histPush co2 temp hum => exact decodeHM_bytes32 .histPush co2 temp hum
  | startContinuousMeasurement p c =>
    exact decodeWire_ok.2 (.inr (.inr (.inr ⟨hi8 p, lo8 p, c, rfl, by rw [be16_hi8_lo8]⟩)))
  | crcCheck | fwVersion | measReady | getMeas | histLen | histFull | histCap | schedStep | schedRead
  | readFirmwareVersion | pollReady | readMeasurement => rfl

/-! ## Encoding what was decoded -/

/-- A host frame decodes only to requests whose data a count byte can count (R71). -/
theorem wellFormed_of_decodeHost {f : Bytes} {i : Instr} (h : decodeHost f = .ok i) : i.wellFormed = true := by
  obtain ⟨hp, rfl⟩ := encode_of_decodeHost h
  cases i with
  | crc8 d =>
    have hcrc : decodeHCRC .crc8 (BitVec.ofNat 8 d.length :: d) = .ok (.crc8 d) := h
    obtain ⟨count, d', hops, hlen, -⟩ := decodeHCRC_ok.1 hcrc
    obtain ⟨-, rfl⟩ := List.cons.inj hops
    have hcount : count.toNat < 256 := count.isLt
    exact decide_eq_true (by omega)
  | startContinuousMeasurement => cases hp
  | _ => rfl

/-- Settles O7: at each level what decodes is the encoding of what it decodes to. -/
theorem encodeOfDecode : Obligations.EncodeOfDecode := by
  intro p b i h
  cases p with
  | host =>
    obtain ⟨hp, he⟩ := encode_of_decodeHost h
    exact ⟨hp, he, fun _ => wellFormed_of_decodeHost h⟩
  | wire =>
    obtain ⟨hp, he⟩ := encode_of_decodeWire h
    exact ⟨hp, he, fun hhost => by cases hhost⟩

/-- Settles O8: seven of the eight are encodings of well-formed instructions, so they decode to them; the wire command
with an operand decodes whatever its checksum byte is. -/
theorem sampleWordsDecode : Obligations.SampleWordsDecode :=
  ⟨decodeOfEncode (.crc8 [0x03#8, 0x47#8]) rfl, decodeOfEncode (.crcCheck 0xBE#8 0xEF#8 0x92#8) rfl,
    decodeOfEncode (.startCont 1013#16) rfl, decodeOfEncode (.histPush 0x43C80001#32 0x41AC0002#32 0x42340003#32) rfl,
    decodeOfEncode (.histRead 258#16) rfl, decodeOfEncode .schedRead rfl, decodeOfEncode .readFirmwareVersion rfl,
    decodeWire_ok.2 (.inr (.inr (.inr ⟨0x03#8, 0xF5#8, 0xDB#8, rfl, rfl⟩)))⟩

end Sys2Proof
end

section
/-! SUPPORT and PROOF. How a host frame fails (30_encoding.md R75, R76, R78, 60_exceptions.md R203, R204): first by its
opcode, then by its length alone, and then its response is the status and nothing else. -/

namespace Sys2Proof

open Machine

/-! ## The opcode map -/

/-- The opcodes whose frames have one length, with that length (R71, R76, R79). CRC8, opcode 0x01, is the one other. -/
def fixedLengths : List (Nat × Nat) :=
  [(0x02, 4), (0x10, 1), (0x11, 1), (0x12, 3), (0x13, 1), (0x20, 13), (0x21, 1), (0x22, 1), (0x23, 3), (0x24, 1),
    (0x30, 1), (0x31, 1)]

/-- A frame of fixed length fails by its length alone (R75). -/
theorem decodeHost_error_of_fixedLength {opc : Byte} {ops : Bytes} {n : Nat} {e : DecodeError}
    (h : (opc.toNat, n) ∈ fixedLengths) :
    decodeHost (opc :: ops) = .error e ↔ (opc :: ops).length ≠ n ∧ e = .badLength := by
  have hopc : ∀ b : Byte, opc.toNat = b.toNat → opc = b := fun b => BitVec.eq_of_toNat_eq
  have hlen : ∀ k, ops.length ≠ k ∧ e = .badLength ↔ (opc :: ops).length ≠ k + 1 ∧ e = .badLength := by simp
  simp only [fixedLengths, List.mem_cons, List.not_mem_nil, or_false, Prod.mk.injEq] at h
  rcases h with ⟨ho, rfl⟩ | ⟨ho, rfl⟩ | ⟨ho, rfl⟩ | ⟨ho, rfl⟩ | ⟨ho, rfl⟩ | ⟨ho, rfl⟩ | ⟨ho, rfl⟩ | ⟨ho, rfl⟩ |
    ⟨ho, rfl⟩ | ⟨ho, rfl⟩ | ⟨ho, rfl⟩ | ⟨ho, rfl⟩
  · obtain rfl := hopc 0x02 ho; exact decodeHCHK_error.trans (hlen 3)
  · obtain rfl := hopc 0x10 ho; exact decodeH0_error.trans (hlen 0)
  · obtain rfl := hopc 0x11 ho; exact decodeH0_error.trans (hlen 0)
  · obtain rfl := hopc 0x12 ho; exact decodeH16_error.trans (hlen 2)
  · obtain rfl := hopc 0x13 ho; exact decodeH0_error.trans (hlen 0)
  · obtain rfl := hopc 0x20 ho; exact decodeHM_error.trans (hlen 12)
  · obtain rfl := hopc 0x21 ho; exact decodeH0_error.trans (hlen 0)
  · obtain rfl := hopc 0x22 ho; exact decodeH0_error.trans (hlen 0)
  · obtain rfl := hopc 0x23 ho; exact decodeH16_error.trans (hlen 2)
  · obtain rfl := hopc 0x24 ho; exact decodeH0_error.trans (hlen 0)
  · obtain rfl := hopc 0x30 ho; exact decodeH0_error.trans (hlen 0)
  · obtain rfl := hopc 0x31 ho; exact decodeH0_error.trans (hlen 0)

/-- A CRC8 frame fails by its length alone: without a count, or with other data than the count says (R75). -/
theorem decodeHost_error_of_crc8 {ops : Bytes} {e : DecodeError} :
    decodeHost (0x01#8 :: ops) = .error e ↔
      ((0x01#8 :: ops).length < 2 ∨ (0x01#8 :: ops).length ≠ 2 + ((0x01#8 :: ops).getD 1 0).toNat) ∧
        e = .badLength := by
  refine decodeHCRC_error.trans (and_congr_left' ?_)
  cases ops with
  | nil => simp
  | cons count d =>
    simp only [List.cons.injEq, List.length_cons, List.getD_cons_succ, List.getD_cons_zero]
    constructor
    · exact fun h => .inr fun hlen => h ⟨count, d, ⟨rfl, rfl⟩, by omega⟩
    · rintro h ⟨_, _, ⟨rfl, rfl⟩, hlen⟩
      omega

/-- A frame fails as ILLEGAL_OPCODE exactly by an opcode outside the map, whatever follows it (R76, R78). -/
theorem decodeHost_illegalOpcode {opc : Byte} {ops : Bytes} :
    decodeHost (opc :: ops) = .error .illegalOpcode ↔ opc.toNat ≠ 0x01 ∧ ∀ e ∈ fixedLengths, e.1 ≠ opc.toNat := by
  constructor
  · refine fun h => ⟨fun h1 => ?_, ?_⟩
    · obtain rfl : opc = 0x01#8 := BitVec.eq_of_toNat_eq h1
      cases (decodeHost_error_of_crc8.1 h).2
    · rintro ⟨_, n⟩ hmem rfl
      cases ((decodeHost_error_of_fixedLength hmem).1 h).2
  · rintro ⟨h1, hfixed⟩
    obtain hopc | hillegal := opcode_cases opc
    · simp only [fixedLengths, List.forall_mem_cons] at hfixed
      simp only [List.mem_cons, List.not_mem_nil, or_false] at hopc
      rcases hopc with rfl | rfl | rfl | rfl | rfl | rfl | rfl | rfl | rfl | rfl | rfl | rfl | rfl <;>
        simp at h1 hfixed
    · exact hillegal ops

/-! ## The step on a frame -/

section Frame

variable {s : State} {f : Bytes} (hl : s.cfg.legal = true) (hr : s.resetIn = false) (hp : s.portState = .idle)
  (hf : s.program[s.pc]? = some f)
include hl hr hp hf

/-- A frame of a wrong length is answered BAD_LENGTH, with no other effect (R204). -/
theorem step_of_badLength (hd : decodeHost f = .error .badLength) : step s = .next (answeredWith s .badLength []) :=
  step_of_fetch_error hl hr (fetch_idle hp hf) hd

/-- A frame with an unassigned opcode is answered ILLEGAL_OPCODE, with no other effect (R203). -/
theorem step_of_illegalOpcode (hd : decodeHost f = .error .illegalOpcode) :
    step s = .next (answeredWith s .illegalOpcode []) :=
  step_of_fetch_error hl hr (fetch_idle hp hf) hd

/-- A frame that fails no check runs the request whose encoding it is (R75, R85). -/
theorem step_of_no_error (hd : ∀ e, decodeHost f ≠ .error e) :
    ∃ i, i.port = .host ∧ encode i = f ∧ step s = exec i s := by
  cases h : decodeHost f with
  | error e => exact absurd h (hd e)
  | ok i =>
    obtain ⟨hi, he⟩ := encode_of_decodeHost h
    exact ⟨i, hi, he, stepRunsHostRequest s f i hl hr hp hf h⟩

end Frame

/-- Settles O3: the checks of `decodeHost_illegalOpcode` and the two lemmas about lengths, in the order of R75. -/
theorem frameDecodeOrder : Obligations.FrameDecodeOrder := by
  intro s f hl hr hp hf
  refine ⟨?_, ?_, ?_, ?_, ?_, ?_⟩
  · rintro rfl
    exact step_of_badLength hl hr hp hf rfl
  · rintro opc ops rfl h1 hfixed
    exact step_of_illegalOpcode hl hr hp hf (decodeHost_illegalOpcode.2 ⟨h1, hfixed⟩)
  · rintro opc ops n rfl hmem hlen
    exact step_of_badLength hl hr hp hf ((decodeHost_error_of_fixedLength hmem).2 ⟨hlen, rfl⟩)
  · rintro ops rfl hlen
    exact step_of_badLength hl hr hp hf (decodeHost_error_of_crc8.2 ⟨hlen, rfl⟩)
  · rintro opc ops n rfl hmem hlen
    exact step_of_no_error hl hr hp hf fun e he => ((decodeHost_error_of_fixedLength hmem).1 he).1 hlen
  · rintro ops rfl hshort hlen
    refine step_of_no_error hl hr hp hf fun e he => ?_
    obtain ⟨hbad | hbad, -⟩ := decodeHost_error_of_crc8.1 he
    · omega
    · exact hbad hlen

/-- The opcodes outside the map are the ranges that R78 lists. -/
theorem unassigned_iff {n : Nat} :
    (n ≠ 0x01 ∧ ∀ e ∈ fixedLengths, e.1 ≠ n) ↔
      n = 0x00 ∨ (0x03 ≤ n ∧ n ≤ 0x0F) ∨ (0x14 ≤ n ∧ n ≤ 0x1F) ∨ (0x25 ≤ n ∧ n ≤ 0x2F) ∨ 0x32 ≤ n := by
  simp only [fixedLengths, List.forall_mem_cons, List.not_mem_nil, IsEmpty.forall_iff, implies_true, and_true]
  omega

/-- Settles O4: the opcodes outside the map are the listed ranges, and the six statuses are the bytes 0 to 5. -/
theorem illegalOpcodesExactly : Obligations.IllegalOpcodesExactly := by
  refine ⟨fun opc ops => ⟨decodeHost_illegalOpcode.trans unassigned_iff, ?_⟩, ?_⟩
  · intro s hl hr hp hf hn
    exact step_of_illegalOpcode hl hr hp hf (decodeHost_illegalOpcode.2 (unassigned_iff.2 hn))
  · intro st
    cases st <;> decide

end Sys2Proof
end

section
/-! SUPPORT and PROOF. The wire commands as instructions of their own (30_encoding.md R80, 41_protocol.md R122, R124):
what each completes with when the bus answers well and no reset falls inside, and the host requests held meanwhile
(30_encoding.md R74). -/

namespace Sys2Proof.Machine

/-! ## The words of a response -/

/-- A big-endian word as a number (R11). -/
theorem toNat_be16 (hi lo : Byte) : (be16 hi lo).toNat = hi.toNat * 256 + lo.toNat := by
  have hlo : lo.toNat < 2 ^ 8 := lo.isLt
  rw [be16, BitVec.toNat_append, ← Nat.shiftLeft_add_eq_or_of_lt hlo, Nat.shiftLeft_eq]

/-- The ready byte of a word: 1 exactly where the word is 1 (R77, R136). -/
theorem boolByte_isReady_be16 (hi lo : Byte) :
    boolByte (isReady (be16 hi lo)) = if hi.toNat * 256 + lo.toNat = 1 then 0x01#8 else 0x00#8 := by
  have hready : isReady (be16 hi lo) = decide (hi.toNat * 256 + lo.toNat = 1) := by
    rw [isReady, ← toNat_be16, Bool.eq_iff_iff, beq_iff_eq, decide_eq_true_iff, BitVec.toNat_eq]
    rfl
  rw [hready, boolByte]
  simp

/-- One group of a response is valid by its own checksum (R102). -/
theorem groupsValid_group {b0 b1 c : Byte} (h : crc8 [b0, b1] = c) : groupsValid [b0, b1, c] = true := by
  simp [groupsValid, wordValid, h]

/-- The two groups that the sensor sends for a pattern are valid (R153). -/
theorem groupsValid_encodeF32 (x : Word32) (rest : Bytes) :
    groupsValid (encodeF32 x ++ rest) = groupsValid rest := by
  simp [encodeF32, groupsValid, wordValid, bytes16]

/-- Their data words are the pattern's two (R153). -/
theorem dataWords_encodeF32 (x : Word32) (rest : Bytes) :
    dataWords (encodeF32 x ++ rest) = x.extractLsb' 16 16 :: x.extractLsb' 0 16 :: dataWords rest := by
  simp [encodeF32, dataWords]

/-- A pattern is joined from its two words (R53). -/
theorem joinWords_extract (x : Word32) : joinWords (x.extractLsb' 16 16) (x.extractLsb' 0 16) = x := by
  rw [joinWords, BitVec.extractLsb'_append_extractLsb'_eq_extractLsb' (by rfl)]
  exact BitVec.extractLsb'_eq_self

/-- What the sensor sends for a measurement (R150, R153). -/
def encodeMeasurement (m : Measurement) : Bytes := encodeF32 m.co2 ++ (encodeF32 m.temp ++ encodeF32 m.hum)

theorem groupsValid_encodeMeasurement (m : Measurement) : groupsValid (encodeMeasurement m) = true := by
  rw [encodeMeasurement, groupsValid_encodeF32, groupsValid_encodeF32, ← List.append_nil (encodeF32 m.hum),
    groupsValid_encodeF32]
  rfl

theorem measFields_encodeMeasurement (m : Measurement) :
    measFields (dataWords (encodeMeasurement m)) = bytesOfMeasurement m := by
  rw [encodeMeasurement, dataWords_encodeF32, dataWords_encodeF32, ← List.append_nil (encodeF32 m.hum),
    dataWords_encodeF32]
  simp [measFields, measurementOfWords, joinWords_extract]

/-! ## A command with a response -/

section Response

variable {s : State} {i : Instr} {cmd b : Bytes} {n : Nat} {fields : List Word16 → Bytes}

/-- A wire command with a response runs the framer's transaction from where it stands. -/
theorem exec_of_resume (hi : i.port = .wire) (hrun : runOf i = resume cmd n fields) (hl : s.cfg.legal = true) :
    exec i s = .next (resume cmd n fields s) := by
  rw [exec_wire hi, serveWire_legal hl, hrun]

/-- From its first phase a transaction is begun (R122). -/
theorem resume_first (hph : s.phase = .none ∨ s.phase = .write) : resume cmd n fields s = transact cmd n fields s := by
  unfold resume
  obtain hph | hph := hph
  · rw [hph]
  · rw [hph]

/-- From phase READ only the read is made (R56, R61). -/
theorem resume_read (hph : s.phase = .read) : resume cmd n fields s = readPhase n fields s := by
  unfold resume
  rw [hph]

/-- A written command whose valid response is read is answered OK with its fields (R122). -/
theorem transact_ok {x : Bytes} (hr : s.resetAt = none) (hw : s.answerTo (.write s.cfg.devAddr cmd) = .ok x)
    (hread : (wroteAndPaused s cmd).answerTo (.read s.cfg.devAddr n) = .ok b)
    (hv : groupsValid (exactly n b) = true) :
    transact cmd n fields s =
      answeredWith (drawn (wroteAndPaused s cmd) (.read s.cfg.devAddr n (.ok (exactly n b)))) .ok
        (fields (dataWords (exactly n b))) := by
  simp [transact_written hw (.inl hr), hread, hr, hv]

/-- A valid response that is read is answered OK with its fields (R122). -/
theorem readPhase_ok (hr : s.resetAt ≠ some .afterRead) (hread : s.answerTo (.read s.cfg.devAddr n) = .ok b)
    (hv : groupsValid (exactly n b) = true) :
    readPhase n fields s =
      answeredWith (drawn s (.read s.cfg.devAddr n (.ok (exactly n b)))) .ok (fields (dataWords (exactly n b))) := by
  simp [readPhase_eq, hread, hr, hv]

/-- A wire command with a response completes from its first phase and from phase READ, with the fields of a valid
response. -/
theorem exec_wire_completes (hi : i.port = .wire) (hrun : runOf i = resume cmd n fields) (hl : s.cfg.legal = true)
    (hv : groupsValid (exactly n b) = true) :
    (∀ x, s.resetAt = none → s.phase = .none ∨ s.phase = .write → s.answerTo (.write s.cfg.devAddr cmd) = .ok x →
      (wroteAndPaused s cmd).answerTo (.read s.cfg.devAddr n) = .ok b →
      exec i s = .next (answeredWith (drawn (wroteAndPaused s cmd) (.read s.cfg.devAddr n (.ok (exactly n b)))) .ok
        (fields (dataWords (exactly n b))))) ∧
    (s.resetAt ≠ some .afterRead → s.phase = .read → s.answerTo (.read s.cfg.devAddr n) = .ok b →
      exec i s = .next (answeredWith (drawn s (.read s.cfg.devAddr n (.ok (exactly n b)))) .ok
        (fields (dataWords (exactly n b))))) := by
  constructor
  · intro x hr hph hw hread
    rw [exec_of_resume hi hrun hl, resume_first hph, transact_ok hr hw hread hv]
  · intro hr hph hread
    rw [exec_of_resume hi hrun hl, resume_read hph, readPhase_ok hr hread hv]

end Response

/-- Settles O20: the one group is valid, and its data word is answered byte by byte. -/
theorem readFirmwareVersionCommand : Obligations.ReadFirmwareVersionCommand := by
  intro s b b0 b1 c hl hb hcrc
  have hv : groupsValid (exactly 3 b) = true := hb ▸ groupsValid_group hcrc
  have hfields : fwFields (dataWords (exactly 3 b)) = [b0, b1] := by rw [hb]; exact bytes16_be16 b0 b1
  have h := exec_wire_completes (i := .readFirmwareVersion) rfl rfl hl hv
  rwa [hfields, hb] at h

/-- Settles O21: the one group is valid, and its data word is compared with 1. -/
theorem pollReadyCommand : Obligations.PollReadyCommand := by
  intro s b b0 b1 c hl hb hcrc
  have hv : groupsValid (exactly 3 b) = true := hb ▸ groupsValid_group hcrc
  have hfields : readyFields (dataWords (exactly 3 b)) =
      [if b0.toNat * 256 + b1.toNat = 1 then 0x01#8 else 0x00#8] := by
    rw [hb, ← boolByte_isReady_be16]; rfl
  have h := exec_wire_completes (i := .pollReady) rfl rfl hl hv
  rwa [hfields, hb] at h

/-- Settles O22: the six groups of an encoded measurement are valid, and their words are its three patterns. -/
theorem readMeasurementCommand : Obligations.ReadMeasurementCommand := by
  intro s b m hl hb
  have hv : groupsValid (exactly 18 b) = true := hb ▸ groupsValid_encodeMeasurement m
  have hfields : measFields (dataWords (exactly 18 b)) = bytesOfMeasurement m := hb ▸ measFields_encodeMeasurement m
  have h := exec_wire_completes (i := .readMeasurement) rfl rfl hl hv
  rwa [hfields] at h

/-! ## The command without a response, and the requests held meanwhile -/

/-- The bytes of the command are its operands as they stand (R80, log entry 13). -/
theorem encode_startContinuousMeasurement (hi lo c : Byte) :
    encode (.startContinuousMeasurement (hi ++ lo) c) = [0x00#8, 0x10#8, hi, lo, c] := by
  have hp : bytes16 (hi ++ lo) = [hi, lo] := bytes16_be16 hi lo
  simp [encode, hp]

/-- Settles O23: the write is the whole transaction (R124). -/
theorem startContinuousMeasurementCommand : Obligations.StartContinuousMeasurementCommand := by
  intro s hi lo c hl hr
  have hexec : exec (.startContinuousMeasurement (hi ++ lo) c) s =
      .next (writeOnly [0x00#8, 0x10#8, hi, lo, c] s) := by
    rw [← encode_startContinuousMeasurement]
    exact serveWire_legal hl
  constructor
  · intro x hw
    simp [hexec, writeOnly_eq, hw, hr]
  · intro e hw
    simp [hexec, writeOnly_eq, hw, hr]

/-- Settles O27: a host request is served, and a Busy port holds it (R74). -/
theorem busyPortHoldsRequests : Obligations.BusyPortHoldsRequests := by
  intro s i hl hp hi
  rw [exec_host hi, serve_busy hl hp]

end Sys2Proof.Machine
end

section
/-! SUPPORT and PROOF. What the record of every reachable state holds (00_scope.md R6, 20_memory.md R51, R59,
30_encoding.md R83): the invariant holds of every reachable state, and the stand that it gives the record lets an access
through only where it is one of the protocol's. -/

namespace Sys2Proof.Machine

/-! ## The invariant of the reachable states -/

/-- A legal configuration has a slot at all (R6). -/
theorem histCap_pos_of_legal {c : Config} (hl : c.legal = true) : 0 < c.histCap.toNat := by
  refine Nat.pos_of_ne_zero fun h => ?_
  have hzero : c.histCap = 0 := BitVec.eq_of_toNat_eq h
  simp [Config.legal, hzero] at hl

/-- The state after reset has the invariant, under every legal configuration (R220). -/
theorem inv_reset {c : Config} (hl : c.legal = true) : Inv { State.reset with cfg := c } = true :=
  inv_iff.2 ⟨hl, historyOk_abandoned (s := { State.reset with cfg := c }) (histCap_pos_of_legal hl),
    schedulerOk_abandoned { State.reset with cfg := c }, framed_abandoned (s := { State.reset with cfg := c }) rfl⟩

/-- Every reachable state has the invariant: the steps keep it, and what happens between them does not show in it. -/
theorem Reachable.inv {s : State} (h : Reachable s) : Inv s = true := by
  induction h with
  | start c hl => exact inv_reset hl
  | @step s t _ hstep ih =>
    obtain ⟨t', ht', hinv⟩ := stepKeepsInvariant s ih
    cases hstep.symm.trans ht'
    exact hinv
  | present | assertReset | assertResetInside | answersKnown => assumption

/-! ## The accesses that the protocol lets through -/

/-- A stand that waits for a read waits for one of a response that is not empty. -/
def BusStand.HasResponse : BusStand → Prop
  | .paused cmd => 0 < responseLength cmd
  | _ => True

/-- Only the pause of a command with a response is waited after (R124, R127). -/
theorem BusStand.after_hasResponse {c : Config} {b b' : BusStand} {e : Event} (h : b.after c e = some b') :
    b'.HasResponse := by
  cases e with
  | write a cmd o =>
    cases o with
    | ok | err =>
      simp only [BusStand.after, Option.ite_none_right_eq_some, Option.some.injEq] at h
      obtain ⟨-, rfl⟩ := h
      trivial
  | pause t =>
    cases b with
    | written cmd =>
      simp only [BusStand.after, Option.ite_none_right_eq_some, Option.some.injEq] at h
      obtain ⟨⟨-, hlen⟩, rfl⟩ := h
      exact hlen
    | _ => cases h
  | read a n o =>
    cases b with
    | paused cmd =>
      simp only [BusStand.after, Option.ite_none_right_eq_some, Option.some.injEq] at h
      obtain ⟨-, rfl⟩ := h
      trivial
    | _ => cases h
  | resp st fields =>
    rw [after_resp] at h
    obtain rfl := Option.some.inj h
    trivial

/-- A write is let through only as a wire command to `DEV_ADDR` (R51, R83). -/
theorem BusStand.of_after_write {c : Config} {b b' : BusStand} {a : BitVec 7} {cmd : Bytes} {o : WriteOutcome}
    (h : b.after c (.write a cmd o) = some b') : a = c.devAddr ∧ isWireCommand cmd = true := by
  cases o with
  | ok | err =>
    simp only [BusStand.after, Option.ite_none_right_eq_some] at h
    exact h.1

/-- A read is let through only for the whole response of the command that was written (R51, R59). -/
theorem BusStand.of_after_read {c : Config} {b b' : BusStand} {a : BitVec 7} {n : Nat} {o : ReadOutcome}
    (h : b.after c (.read a n o) = some b') : ∃ cmd, b = .paused cmd ∧ a = c.devAddr ∧ n = responseLength cmd := by
  cases b with
  | paused cmd =>
    simp only [BusStand.after, Option.ite_none_right_eq_some] at h
    exact ⟨cmd, rfl, h.1⟩
  | _ => cases h

/-- Every event of a record that keeps the protocol was let through, at a stand that keeps `HasResponse`. -/
theorem busStand_lets_through {c : Config} {e : Event} {es : List Event} {b : BusStand} (hb : b.HasResponse)
    (h : (busStand c b es).isSome = true) (he : e ∈ es) : ∃ b₁ b₂ : BusStand, b₁.HasResponse ∧ b₁.after c e = some b₂ := by
  induction es generalizing b with
  | nil => cases he
  | cons e' rest ih =>
    unfold busStand at h
    cases hafter : b.after c e' with
    | none => rw [hafter] at h; cases h
    | some b' =>
      rw [hafter] at h
      obtain rfl | hrest := List.mem_cons.1 he
      · exact ⟨b, b', hb, hafter⟩
      · exact ih (BusStand.after_hasResponse hafter) h hrest

/-- The bytes of the four wire commands (R80, R81). -/
theorem bytes_of_isWireCommand {cmd : Bytes} (h : isWireCommand cmd = true) :
    cmd = [0xD1#8, 0x00#8] ∨ cmd = [0x02#8, 0x02#8] ∨ cmd = [0x03#8, 0x00#8] ∨
      ∃ hi lo, cmd = [0x00#8, 0x10#8, hi, lo, crc8 [hi, lo]] := by
  obtain ⟨i, hd⟩ := decodeWire_of_isWireCommand h
  obtain ⟨rfl, -⟩ | ⟨rfl, -⟩ | ⟨rfl, -⟩ | ⟨hi, lo, c, rfl, rfl⟩ := decodeWire_ok.1 hd
  · exact .inl rfl
  · exact .inr (.inl rfl)
  · exact .inr (.inr (.inl rfl))
  · rw [isWireCommand, hd] at h
    have hc : c = crc8 [hi, lo] := by simpa [Instr.wellFormed] using h
    exact .inr (.inr (.inr ⟨hi, lo, hc ▸ rfl⟩))

/-- The lengths of the responses there are (R80, R123). -/
theorem responseLength_of_pos {cmd : Bytes} (h : 0 < responseLength cmd) :
    responseLength cmd = 3 ∨ responseLength cmd = 18 := by
  unfold responseLength at h ⊢
  split at h
  · exact .inl rfl
  · exact .inl rfl
  · exact .inr rfl
  · cases h

/-- Settles O55: the record of a reachable state keeps the protocol, which lets no other access through. -/
theorem busCarriesOnlyWireCommands : Obligations.BusCarriesOnlyWireCommands := by
  intro s hs
  obtain ⟨-, -, -, hframed⟩ := inv_iff.1 hs.inv
  constructor
  · intro a cmd o he
    obtain ⟨b, b', -, hafter⟩ := busStand_lets_through (b := .free) trivial hframed.trace he
    obtain ⟨ha, hcmd⟩ := BusStand.of_after_write hafter
    exact ⟨ha, bytes_of_isWireCommand hcmd⟩
  · intro a n o he
    obtain ⟨b, b', hb, hafter⟩ := busStand_lets_through (b := .free) trivial hframed.trace he
    obtain ⟨cmd, rfl, ha, rfl⟩ := BusStand.of_after_read hafter
    exact ⟨ha, responseLength_of_pos hb⟩

end Sys2Proof.Machine
end

section
/-! SUPPORT and PROOF. Errors are precise (30_encoding.md R73, 60_exceptions.md R200, R207): only a request that makes no
change of its own answers a status other than OK, and its response carries nothing but a transport cause. -/

namespace Sys2Proof.Machine

/-! ## The responses a run adds -/

/-- `t` has the record of `s` with more events, whose responses all are as `P` says. -/
def AddsResponses (P : Status → Bytes → Prop) (s t : State) : Prop :=
  ∃ es, t.events = s.events ++ es ∧ ∀ st fields, .resp st fields ∈ es → P st fields

/-- A status other than OK carries no data but the cause of a failed primitive (R73). -/
def NoErrorData (st : Status) (fields : Bytes) : Prop := st = .ok ∨ st = .transportFailure ∨ fields = []

section AddsResponses

variable {P : Status → Bytes → Prop} {s u t : State}

/-- What holds of the added responses holds of each. -/
theorem AddsResponses.of_mem {added : List Event} {st : Status} {fields : Bytes} (h : AddsResponses P s t)
    (he : t.events = s.events ++ added) (hmem : .resp st fields ∈ added) : P st fields := by
  obtain ⟨es, hes, hp⟩ := h
  obtain rfl := List.append_cancel_left (hes.symm.trans he)
  exact hp st fields hmem

theorem AddsResponses.trans (h : AddsResponses P s u) (k : AddsResponses P u t) : AddsResponses P s t := by
  obtain ⟨es, he, hes⟩ := h
  obtain ⟨fs, hf, hfs⟩ := k
  refine ⟨es ++ fs, by rw [hf, he, List.append_assoc], fun st fields hmem => ?_⟩
  obtain hmem | hmem := List.mem_append.1 hmem
  · exact hes st fields hmem
  · exact hfs st fields hmem

theorem not_mem_of_responses_eq_zero {es : List Event} {st : Status} {fields : Bytes} (h : responses es = 0) :
    .resp st fields ∉ es := by
  intro hmem
  obtain ⟨as, bs, rfl⟩ := List.append_of_mem hmem
  rw [responses_append] at h
  simp [responses] at h

/-- An exchange on the bus adds no response. -/
theorem Exchange.addsResponses (h : Exchange s u) : AddsResponses P s u := by
  obtain ⟨es, hes, he⟩ := h.events
  exact ⟨es, he, fun st fields hmem => absurd hmem (not_mem_of_responses_eq_zero hes)⟩

/-- A reset adds no response (R221). -/
theorem Exchange.addsResponses_abandoned (h : Exchange s u) : AddsResponses P s (abandoned u) :=
  h.addsResponses

/-- A request that is answered after an exchange on the bus adds that response. -/
theorem Exchange.addsResponses_answeredWith (h : Exchange s u) {st : Status} {fields : Bytes} (hp : P st fields) :
    AddsResponses P s (answeredWith u st fields) := by
  refine h.addsResponses.trans ⟨[.resp st fields], rfl, fun st' fields' hmem => ?_⟩
  obtain ⟨rfl, rfl⟩ := Event.resp.inj (List.mem_singleton.1 hmem)
  exact hp

/-- A push adds nothing to the record. -/
theorem addsResponses_pushEntry (s : State) (m : Measurement) : AddsResponses P s (s.pushEntry m) :=
  ⟨[], by simp, by simp⟩

end AddsResponses

/-! ## The transactions -/

theorem noErrorData_readPhase (n : Nat) (fields : List Word16 → Bytes) (s : State) :
    AddsResponses NoErrorData s (readPhase n fields s) := by
  rw [readPhase_eq]
  cases s.answerTo (.read s.cfg.devAddr n) with
  | ok b =>
    dsimp only
    split_ifs
    · exact (exchange_drawn s rfl).addsResponses_abandoned
    · exact (exchange_drawn s rfl).addsResponses_answeredWith (.inl rfl)
    · exact (exchange_drawn s rfl).addsResponses_answeredWith (.inr (.inr rfl))
  | err c =>
    dsimp only
    split_ifs
    · exact (exchange_drawn s rfl).addsResponses_abandoned
    · exact (exchange_drawn s rfl).addsResponses_answeredWith (.inr (.inl rfl))
  | pending => exact Exchange.addsResponses (.of_events_eq rfl ⟨rfl, rfl, rfl, rfl, rfl⟩ rfl rfl rfl rfl)

theorem noErrorData_checkPhase (fields : List Word16 → Bytes) (s : State) :
    AddsResponses NoErrorData s (checkPhase fields s) := by
  unfold checkPhase
  split
  · exact (Exchange.refl s).addsResponses_answeredWith (.inl rfl)
  · exact (Exchange.refl s).addsResponses_answeredWith (.inr (.inr rfl))

theorem noErrorData_pausePhase (n : Nat) (fields : List Word16 → Bytes) (s : State) :
    AddsResponses NoErrorData s (pausePhase n fields s) := by
  rw [pausePhase, orReset_eq]
  split
  · exact (exchange_doPause s).addsResponses_abandoned
  · exact (exchange_doPause s).addsResponses.trans (noErrorData_readPhase n fields _)

theorem noErrorData_busWrite (cmd : Bytes) {next : State → State} (hnext : ∀ u, AddsResponses NoErrorData u (next u))
    (s : State) : AddsResponses NoErrorData s (busWrite cmd next s) := by
  rw [busWrite_eq]
  cases s.answerTo (.write s.cfg.devAddr cmd) with
  | ok b =>
    dsimp only
    split_ifs
    · exact (exchange_drawn s rfl).addsResponses_abandoned
    · exact (exchange_written s cmd .ok).addsResponses.trans (hnext _)
  | err c =>
    dsimp only
    split_ifs
    · exact (exchange_drawn s rfl).addsResponses_abandoned
    · exact (exchange_drawn s rfl).addsResponses_answeredWith (.inr (.inl rfl))
  | pending => exact (exchange_waiting s _ _).addsResponses

theorem noErrorData_transact (cmd : Bytes) (n : Nat) (fields : List Word16 → Bytes) (s : State) :
    AddsResponses NoErrorData s (transact cmd n fields s) :=
  noErrorData_busWrite cmd (noErrorData_pausePhase n fields) s

theorem noErrorData_writeOnly (cmd : Bytes) (s : State) : AddsResponses NoErrorData s (writeOnly cmd s) :=
  noErrorData_busWrite cmd (fun u => (Exchange.refl u).addsResponses_answeredWith (.inl rfl)) s

theorem noErrorData_resume (cmd : Bytes) (n : Nat) (fields : List Word16 → Bytes) (s : State) :
    AddsResponses NoErrorData s (resume cmd n fields s) := by
  unfold resume
  cases s.phase with
  | none => exact noErrorData_transact cmd n fields s
  | write => exact noErrorData_transact cmd n fields s
  | pause => exact noErrorData_pausePhase n fields s
  | read => exact noErrorData_readPhase n fields s
  | check => exact noErrorData_checkPhase fields s

/-! ## The instructions and the step -/

/-- No instruction's run adds error data (R73). -/
theorem noErrorData_runOf (i : Instr) (s : State) : AddsResponses NoErrorData s (runOf i s) := by
  cases i with
  | fwVersion | measReady | getMeas => exact noErrorData_transact _ _ _ s
  | startCont | startContinuousMeasurement => exact noErrorData_writeOnly _ s
  | readFirmwareVersion | pollReady | readMeasurement => exact noErrorData_resume _ _ _ s
  | histPush co2 temp hum =>
    exact (addsResponses_pushEntry s _).trans ((Exchange.refl _).addsResponses_answeredWith (.inl rfl))
  | histRead k =>
    rw [runOf_histRead]
    split
    · exact (Exchange.refl s).addsResponses_answeredWith (.inr (.inr rfl))
    · exact (Exchange.refl s).addsResponses_answeredWith (.inl rfl)
  | crc8 | crcCheck | histLen | histFull | histCap | schedStep | schedRead =>
    exact (Exchange.refl s).addsResponses_answeredWith (.inl rfl)

/-- An instruction that makes a change of its own answers OK (R160, R180). -/
theorem ownChange_or_ok (i : Instr) (s : State) :
    ownChange i s = s ∨ AddsResponses (fun st _ => st = .ok) s (runOf i s) := by
  cases i with
  | histPush co2 temp hum =>
    exact .inr ((addsResponses_pushEntry s _).trans ((Exchange.refl _).addsResponses_answeredWith rfl))
  | schedStep => exact .inr ((Exchange.refl s).addsResponses_answeredWith rfl)
  | _ => exact .inl rfl

section Error

variable {s t : State} {added : List Event} {st : Status} {fields : Bytes}

/-- A run that answers an error is an exchange on the bus and its end alone, with no error data. -/
theorem runOf_error {i : Instr} (he : (runOf i s).events = s.events ++ added) (hmem : .resp st fields ∈ added)
    (hst : st ≠ .ok) : Ends s (runOf i s) ∧ NoErrorData st fields := by
  refine ⟨?_, (noErrorData_runOf i s).of_mem he hmem⟩
  obtain hnone | hok := ownChange_or_ok i s
  · simpa only [hnone] using ends_runOf i s
  · exact absurd (hok.of_mem he hmem) hst

/-- So is a step, unless it takes a reset. -/
theorem step_error (hr : s.resetIn = false) (h : step s = .next t) (he : t.events = s.events ++ added)
    (hmem : .resp st fields ∈ added) (hst : st ≠ .ok) : Ends s t ∧ NoErrorData st fields := by
  have hstays : Ends s s ∧ AddsResponses NoErrorData s s := ⟨.unfinished (.refl s), (Exchange.refl s).addsResponses⟩
  have hrejects : ∀ st, Ends s (answeredWith s st []) ∧ AddsResponses NoErrorData s (answeredWith s st []) := fun st =>
    ⟨ends_respond s st [], (Exchange.refl s).addsResponses_answeredWith (.inr (.inr rfl))⟩
  obtain ⟨-, ⟨hr', -⟩ | ⟨-, ⟨-, rfl⟩ | ⟨p, b, -, ⟨i, -, hexec⟩ | ⟨e, -, hreject⟩⟩⟩⟩ := step_next h
  · rw [hr] at hr'; cases hr'
  · exact hstays.imp_right fun k => k.of_mem he hmem
  · obtain ⟨-, -, rfl⟩ | ⟨-, -, rfl⟩ | ⟨-, rfl⟩ := exec_next hexec
    · exact (runOf_error (s := s.accept) he hmem hst).imp_left (.after_exchange (exchange_accept s))
    · exact hstays.imp_right fun k => k.of_mem he hmem
    · exact runOf_error he hmem hst
  · obtain ⟨-, rfl⟩ | ⟨-, rfl⟩ := rejectBytes_next hreject
    · exact (hrejects _).imp_right fun k => k.of_mem he hmem
    · exact (hrejects _).imp_right fun k => k.of_mem he hmem

/-- An end that added a response answered the request. -/
theorem Ends.answered_of_mem (h : Ends s t) (he : t.events = s.events ++ added) (hmem : .resp st fields ∈ added) :
    ∃ u st' fields', Exchange s u ∧ t = answeredWith u st' fields' := by
  cases h with
  | unfinished h => exact (h.addsResponses (P := fun _ _ => False).of_mem he hmem).elim
  | answered h st' fields' => exact ⟨_, st', fields', h, rfl⟩
  | abandoned h hr => exact (h.addsResponses_abandoned (P := fun _ _ => False).of_mem he hmem).elim

end Error

/-- Settles O48: a request that answers an error made no change of its own, so it kept the block state, and it ended. -/
theorem errorsArePrecise : Obligations.ErrorsArePrecise := by
  intro s t added st fields hr h he hmem hst
  obtain ⟨hends, hdata⟩ := step_error hr h he hmem hst
  obtain ⟨u, st', fields', hu, rfl⟩ := hends.answered_of_mem he hmem
  refine ⟨hu.block, rfl, rfl, fun hne => ?_⟩
  obtain hok | htransport | hfields := hdata
  · exact absurd hok hst
  · exact absurd htransport hne
  · exact hfields

end Sys2Proof.Machine
end

section
/-! SUPPORT and PROOF. The checksum engine (40_checksum.md R100 to R106). Two facts about one shift of the
register carry everything: it takes in the message's top bit as the bit-serial division does (`crcShift_xor`), and it
loses nothing (`crcShift_injective`). -/

namespace Sys2Proof.Machine

/-! ## The register and the bit-serial division -/

/-- One message bit enters the division by the polynomial (R100). -/
def bitStep (c : Byte) (bit : Bool) : Byte :=
  if (c.getMsbD 0) != bit then (c <<< 1) ^^^ 0x31#8 else c <<< 1

/-- A shift takes in the top bit of the message part that is still in the register, and moves the rest up. -/
theorem crcShift_xor (c x : Byte) : crcShift (c ^^^ x) = bitStep c (x.getMsbD 0) ^^^ x <<< 1 := by
  have htop : (c ^^^ x).getLsbD 7 = (c.getMsbD 0 != x.getMsbD 0) := BitVec.getLsbD_xor
  rw [crcShift, bitStep, htop, BitVec.shiftLeft_xor_distrib]
  split
  · rw [BitVec.xor_assoc, BitVec.xor_assoc, BitVec.xor_comm (x <<< 1)]
  · rfl

/-- After `k` shifts the first `k` message bits have entered, and the others stand at the register's top. -/
theorem repeat_crcShift_xor (c b : Byte) (k : Nat) :
    Nat.repeat crcShift k (c ^^^ b) = ((List.range k).map b.getMsbD).foldl bitStep c ^^^ b <<< k := by
  induction k with
  | zero => simp [Nat.repeat]
  | succ k ih =>
    have hbit : (b <<< k).getMsbD 0 = b.getMsbD k := by simp [BitVec.getMsbD_shiftLeft]
    rw [Nat.repeat, ih, crcShift_xor, hbit, ← BitVec.shiftLeft_add, List.range_succ, List.map_append,
      List.foldl_append]
    rfl

/-- A byte's eight bits, most significant first (R100). -/
theorem crcByte_eq_foldl_bitStep (c b : Byte) : crcByte c b = ((List.range 8).map b.getMsbD).foldl bitStep c := by
  rw [crcByte, repeat_crcShift_xor, BitVec.shiftLeft_eq_zero (le_refl 8), BitVec.xor_zero]

/-- Settles O11: byte by byte, by the invariant of the eight shifts. -/
theorem crcIsBitSerial : Obligations.CrcIsBitSerial := by
  intro d
  have hbyte : crcByte = fun c b => ((List.range 8).map b.getMsbD).foldl bitStep c :=
    funext₂ crcByte_eq_foldl_bitStep
  rw [crc8, hbyte, ← List.foldl_flatMap]
  rfl

/-! ## The register loses nothing -/

/-- The bit shifted out stands in bit 0, because the polynomial is odd. -/
theorem getLsbD_crcShift_zero (c : Byte) : (crcShift c).getLsbD 0 = c.getLsbD 7 := by
  unfold crcShift
  split <;> simp_all

theorem crcShift_injective : Function.Injective crcShift := by
  intro a b h
  have htop : a.getLsbD 7 = b.getLsbD 7 := by rw [← getLsbD_crcShift_zero, h, getLsbD_crcShift_zero]
  have hshift : a <<< 1 = b <<< 1 := by
    rw [crcShift, crcShift, htop] at h
    split at h
    · exact (BitVec.xor_left_inj _).1 h
    · exact h
  apply BitVec.eq_of_getLsbD_eq
  intro i hi
  obtain rfl | hlow : i = 7 ∨ i < 7 := by omega
  · exact htop
  · have hup : i + 1 < 8 := by omega
    simpa [BitVec.getLsbD_shiftLeft, hup, -BitVec.getLsbD_eq_getElem] using congrArg (·.getLsbD (i + 1)) hshift

theorem repeat_crcShift_injective (k : Nat) : Function.Injective (Nat.repeat crcShift k) := by
  induction k with
  | zero => exact Function.injective_id
  | succ k ih => exact crcShift_injective.comp ih

/-- Two registers and bytes leave the same register exactly where they XOR to the same. -/
theorem crcByte_inj {c c' b b' : Byte} : crcByte c b = crcByte c' b' ↔ c ^^^ b = c' ^^^ b' :=
  (repeat_crcShift_injective 8).eq_iff

/-- A byte takes the register to 0 exactly where it is the register. -/
theorem crcByte_eq_zero {c b : Byte} : crcByte c b = 0x00#8 ↔ c = b := by
  have hzero : crcByte 0x00#8 0x00#8 = 0x00#8 := by decide
  rw [← hzero, crcByte_inj, BitVec.xor_zero, BitVec.xor_eq_zero_iff]

/-- Settles O12: the register is 0 after a last byte exactly where that byte is the CRC of what came before. -/
theorem crcResidue : Obligations.CrcResidue := by
  have hresidue (d : Bytes) (c : Byte) : crc8 (d ++ [c]) = 0x00#8 ↔ crc8 d = c := by rw [crc8_concat, crcByte_eq_zero]
  exact ⟨fun d => (hresidue d _).2 rfl, fun hi lo c => (wordValid_iff hi lo c).trans (hresidue [hi, lo] c).symm⟩

/-! ## The requests -/

/-- The CRC of a word, one register value after another. -/
theorem crc8_word {b0 b1 c d : Byte} (h0 : crcByte 0xFF#8 b0 = c) (h1 : crcByte c b1 = d) : crc8 [b0, b1] = d := by
  rw [← h1, ← h0]
  rfl

/-- The fixture of R106: its first byte leaves the init value again. -/
theorem crc8_of_firmwareFixture : crc8 [0x03#8, 0x47#8] = 0x06#8 :=
  crc8_word (c := 0xFF#8) (by decide) (by decide)

/-- Settles O13: the register is run shift by shift. -/
theorem crcWorkedTrace : Obligations.CrcWorkedTrace :=
  ⟨by decide, by decide, crc8_of_firmwareFixture⟩

/-- Settles O14: the request is served, its format has the one length, and [0xFF] is a case of the residue law. -/
theorem crc8Request : Obligations.Crc8Request := by
  refine ⟨fun s d hl hp => (exec_host rfl s).trans (serve_idle hl hp),
    fun count d => ⟨fun hlen => ?_, fun hlen => ?_⟩, fun d => ?_, crc8_nil, crcResidue.1 [], crc8_of_firmwareFixture⟩
  · exact decodeHCRC_ok.2 ⟨count, d, rfl, hlen, rfl⟩
  · refine decodeHost_error_of_crc8.2 ⟨.inr fun hframe => hlen ?_, rfl⟩
    simp only [List.length_cons, List.getD_cons_succ, List.getD_cons_zero] at hframe
    omega
  · exact decide_eq_true_iff

/-- Words that differ in one byte alone have different CRCs. -/
theorem eq_of_crc8_bytes16 {w w' : Word16} (hbyte : hi8 w = hi8 w' ∨ lo8 w = lo8 w')
    (h : crc8 (bytes16 w) = crc8 (bytes16 w')) : w = w' := by
  have hreg : crcByte 0xFF#8 (hi8 w) ^^^ lo8 w = crcByte 0xFF#8 (hi8 w') ^^^ lo8 w' := crcByte_inj.1 h
  have hboth : hi8 w = hi8 w' ∧ lo8 w = lo8 w' := by
    obtain hhi | hlo := hbyte
    · rw [hhi] at hreg
      exact ⟨hhi, (BitVec.xor_right_inj _).1 hreg⟩
    · rw [hlo] at hreg
      exact ⟨(BitVec.xor_right_inj _).1 (crcByte_inj.1 ((BitVec.xor_left_inj _).1 hreg)), hlo⟩
  rw [← be16_hi8_lo8 w, hboth.1, hboth.2, be16_hi8_lo8]

/-- Every single-bit change of a data word is detected (R103): it leaves one of the two bytes. -/
theorem crc8_bytes16_flip_ne (w : Word16) {k : Nat} (hk : k < 16) :
    crc8 (bytes16 (w ^^^ (1#16 <<< k))) ≠ crc8 (bytes16 w) := by
  have hflip : ∀ k < 16, 1#16 <<< k ≠ 0#16 ∧ (hi8 (1#16 <<< k) = 0#8 ∨ lo8 (1#16 <<< k) = 0#8) := by decide
  obtain ⟨hne, hbyte⟩ := hflip k hk
  intro h
  have heq : w ^^^ 1#16 <<< k = w := by
    refine eq_of_crc8_bytes16 (hbyte.imp (fun hhi => ?_) fun hlo => ?_) h
    · rw [hi8, BitVec.extractLsb'_xor, ← hi8, ← hi8, hhi, BitVec.xor_zero]
    · rw [lo8, BitVec.extractLsb'_xor, ← lo8, ← lo8, hlo, BitVec.xor_zero]
  exact hne (by simpa using heq)

/-- The answer of CRC_CHECK compares the CRC of the data word (R102, R103). -/
theorem boolByte_wordValid (hi lo c : Byte) :
    boolByte (wordValid hi lo c) = if crc8 [hi, lo] = c then 0x01#8 else 0x00#8 := by
  simp [boolByte, wordValid]

/-- Settles O15: a valid checksum byte is the CRC of its word, which is one byte; single-bit changes go by
`crc8_bytes16_flip_ne`. -/
theorem crcCheckRequest : Obligations.CrcCheckRequest := by
  refine ⟨fun b0 b1 c => ⟨rfl, wordValid_iff b0 b1 c⟩, fun s b0 b1 c hl hp => ?_, fun b0 b1 => ?_, fun c => ?_,
    fun w k hk => crc8_bytes16_flip_ne w hk, (wordValid_iff _ _ _).2 (crc8_word (c := 0x0C#8) (by decide) (by decide)),
    by rw [wordValid, crc8_of_firmwareFixture]; rfl⟩
  · rw [← boolByte_wordValid]
    exact (exec_host rfl s).trans (serve_idle hl hp)
  · exact ⟨crc8 [b0, b1], (wordValid_iff b0 b1 _).2 rfl, fun c' h => ((wordValid_iff b0 b1 c').1 h).symm⟩
  · have hzero : crc8 [0x00#8, 0x00#8] = 0x81#8 := crc8_word (c := 0xAC#8) (by decide) (by decide)
    rw [wordValid_iff, hzero, eq_comm]

end Sys2Proof.Machine
end

section
/-! SUPPORT and PROOF. Every read follows its pause and its write (41_protocol.md R122, R127). The stand of a record
says what the record's last events are (`BusStand.EndsRecord`); a read is let through only after a pause. -/

namespace Sys2Proof.Machine

/-- A record's stand moves through its first part, then through the rest. -/
theorem busStand_append (c : Config) (b : BusStand) (es fs : List Event) :
    busStand c b (es ++ fs) = (busStand c b es).bind fun b' => busStand c b' fs := by
  induction es generalizing b with
  | nil => rfl
  | cons e rest ih =>
    simp only [List.cons_append, busStand]
    cases b.after c e with
    | none => rfl
    | some b' => exact ih b'

/-- An event of a record that keeps the protocol was let through at the stand of the events before it. -/
theorem stand_before_event {c : Config} {b : BusStand} {before after : List Event} {e : Event}
    (h : (busStand c b (before ++ e :: after)).isSome = true) :
    ∃ b₁ b₂, busStand c b before = some b₁ ∧ b₁.after c e = some b₂ := by
  rw [busStand_append] at h
  cases hbefore : busStand c b before with
  | none => rw [hbefore] at h; cases h
  | some b₁ =>
    rw [hbefore, Option.bind_some, busStand] at h
    cases hafter : b₁.after c e with
    | none => rw [hafter] at h; cases h
    | some b₂ => exact ⟨b₁, b₂, rfl, hafter⟩

/-- The last events of a record that stands here: the write of the command, and its pause if it is over. -/
def BusStand.EndsRecord (c : Config) (es : List Event) : BusStand → Prop
  | .free => True
  | .written cmd => [.write c.devAddr cmd .ok] <:+ es
  | .paused cmd => [.write c.devAddr cmd .ok, .pause c.tPause] <:+ es

/-- Each event that is let through leaves the stand of the record it ends. -/
theorem BusStand.endsRecord_after {c : Config} {es : List Event} {b b' : BusStand} {e : Event}
    (hb : b.EndsRecord c es) (h : b.after c e = some b') : b'.EndsRecord c (es ++ [e]) := by
  cases e with
  | write a cmd o =>
    cases o with
    | ok =>
      simp only [BusStand.after, Option.ite_none_right_eq_some, Option.some.injEq] at h
      obtain ⟨⟨rfl, -⟩, rfl⟩ := h
      exact List.suffix_append es _
    | err x =>
      simp only [BusStand.after, Option.ite_none_right_eq_some, Option.some.injEq] at h
      obtain ⟨-, rfl⟩ := h
      trivial
  | pause t =>
    cases b with
    | written cmd =>
      simp only [BusStand.after, Option.ite_none_right_eq_some, Option.some.injEq] at h
      obtain ⟨⟨rfl, -⟩, rfl⟩ := h
      obtain ⟨earlier, rfl⟩ := hb
      exact ⟨earlier, by simp⟩
    | _ => cases h
  | read a n o =>
    cases b with
    | paused cmd =>
      simp only [BusStand.after, Option.ite_none_right_eq_some, Option.some.injEq] at h
      obtain ⟨-, rfl⟩ := h
      trivial
    | _ => cases h
  | resp st fields =>
    rw [after_resp] at h
    obtain rfl := Option.some.inj h
    trivial

/-- The stand of a whole record tells how the record ends. -/
theorem busStand_endsRecord {c : Config} {es : List Event} {b : BusStand} (h : busStand c .free es = some b) :
    b.EndsRecord c es := by
  induction es using List.reverseRecOn generalizing b with
  | nil =>
    obtain rfl : BusStand.free = b := Option.some.inj h
    trivial
  | append_singleton rest e ih =>
    rw [busStand_concat] at h
    obtain ⟨b₀, hrest, hafter⟩ := Option.bind_eq_some_iff.1 h
    exact BusStand.endsRecord_after (ih hrest) hafter

/-- Settles O56: the read was let through at a stand after a pause, and that stand tells the two events before it. -/
theorem readsFollowWriteAndPause : Obligations.ReadsFollowWriteAndPause := by
  intro s before after a n o hs hevents
  obtain ⟨-, -, -, hframed⟩ := inv_iff.1 hs.inv
  have htrace := hframed.trace
  rw [stand, hevents] at htrace
  obtain ⟨b, b', hstand, hafter⟩ := stand_before_event htrace
  obtain ⟨cmd, rfl, -, hn⟩ := BusStand.of_after_read hafter
  obtain ⟨earlier, hbefore⟩ := busStand_endsRecord hstand
  exact ⟨earlier, cmd, hbefore.symm, hn⟩

end Sys2Proof.Machine
end

section
/-! SUPPORT and PROOF. The groups and the data words of a response, and the payload decoder (41_protocol.md R128, R151,
R153, R154). -/

namespace Sys2Proof.Machine

/-! ## The groups of a response, by their numbers -/

/-- Bytes with no whole group in front are fewer than three. -/
theorem length_lt_of_no_group {g : Bytes} (h : ∀ b0 b1 c rest, g ≠ b0 :: b1 :: c :: rest) : g.length < 3 := by
  match g with
  | [] | [_] | [_, _] => simp
  | b0 :: b1 :: c :: rest => exact absurd rfl (h b0 b1 c rest)

/-- A response is valid when every whole group in it has the checksum of its two data bytes (R102, R128). -/
theorem groupsValid_iff (g : Bytes) :
    groupsValid g = true ↔
      ∀ k < g.length / 3, crc8 [g.getD (3 * k) 0, g.getD (3 * k + 1) 0] = g.getD (3 * k + 2) 0 := by
  induction g using groupsValid.induct with
  | case1 b0 b1 c rest ih =>
    have hlen : (b0 :: b1 :: c :: rest).length / 3 = rest.length / 3 + 1 := by simp only [List.length_cons]; omega
    have hgroup (k : Nat) : 3 * (k + 1) = 3 * k + 3 := by omega
    rw [groupsValid, Bool.and_eq_true, wordValid_iff, ih, hlen, Nat.forall_lt_succ_left]
    simp [hgroup]
  | case2 g hshort =>
    have hlen : g.length / 3 = 0 := Nat.div_eq_of_lt (length_lt_of_no_group hshort)
    simp [groupsValid, hlen]

/-- A response that was read is valid group by group (R55, R128). -/
theorem groupsValid_exactly_iff (n : Nat) (b : Bytes) :
    groupsValid (exactly n b) = true ↔
      ∀ k < n / 3, crc8 [(exactly n b).getD (3 * k) 0, (exactly n b).getD (3 * k + 1) 0] =
        (exactly n b).getD (3 * k + 2) 0 := by
  rw [groupsValid_iff, length_exactly]

/-- One group of a response is valid exactly by its own checksum (R102). -/
theorem groupsValid_group_iff (b0 b1 c : Byte) : groupsValid [b0, b1, c] = true ↔ crc8 [b0, b1] = c := by
  simp [groupsValid, wordValid_iff]

/-- The data word of a whole group is its first two bytes (R57, R82). -/
theorem dataWords_getD {g : Bytes} {k : Nat} (h : 3 * k + 2 < g.length) :
    (dataWords g).getD k 0 = be16 (g.getD (3 * k) 0) (g.getD (3 * k + 1) 0) := by
  induction g using dataWords.induct generalizing k with
  | case1 b0 b1 c rest ih =>
    cases k with
    | zero => rfl
    | succ k =>
      have hgroup : 3 * (k + 1) = 3 * k + 3 := by omega
      have hrest : 3 * k + 2 < rest.length := by simp only [List.length_cons] at h; omega
      simpa [dataWords, hgroup] using ih hrest
  | case2 g hshort =>
    have hlen := length_lt_of_no_group hshort
    omega

/-! ## The payload decoder -/

/-- A pattern is joined from the data bytes of its two groups (R53, R151). -/
theorem joinWords_be16 (a b c d : Byte) : joinWords (be16 a b) (be16 c d) = be32 a b c d := rfl

/-- The decoder undoes the encoder (R153). -/
theorem decodeF32_encodeF32 (x : Word32) : decodeF32 (encodeF32 x) = x := by
  have hwords := dataWords_encodeF32 x []
  rw [List.append_nil] at hwords
  simp [decodeF32, hwords, joinWords_extract]

/-- Settles O9: the groups carry the pattern's two words, and each word is its two bytes. -/
theorem payloadRoundTrip : Obligations.PayloadRoundTrip := by
  intro x
  have hvalid := groupsValid_encodeF32 x []
  rw [List.append_nil] at hvalid
  have hbytes : ∀ w : Word16, hi8 w ++ lo8 w = w := be16_hi8_lo8
  refine ⟨decodeF32_encodeF32 x, hvalid, hi8 (x.extractLsb' 16 16), lo8 (x.extractLsb' 16 16),
    hi8 (x.extractLsb' 0 16), lo8 (x.extractLsb' 0 16), ?_, rfl⟩
  rw [hbytes, hbytes]
  exact joinWords_extract x

/-- The checksum of the zero word (R140). -/
theorem crc8_of_zeroWord : crc8 [0x00#8, 0x00#8] = 0x81#8 :=
  crc8_word (c := 0xAC#8) (by decide) (by decide)

/-- The groups of the example of R154. -/
theorem encodeF32_example :
    encodeF32 0x43C80000#32 = [0x43#8, 0xC8#8, 0xDB#8, 0x00#8, 0x00#8, 0x81#8] := by
  have hfirst : crc8 [0x43#8, 0xC8#8] = 0xDB#8 := crc8_word (c := 0xC2#8) (by decide) (by decide)
  rw [← hfirst, ← crc8_of_zeroWord]
  rfl

/-- Settles O10: the checksum bytes fall out with the data words, and the example is decoded because it was encoded. -/
theorem decoderDropsChecksums : Obligations.DecoderDropsChecksums := by
  refine ⟨fun g0 g1 c0 g2 g3 c1 => joinWords_be16 g0 g1 g2 g3, encodeF32_example, ?_, by decide⟩
  rw [← encodeF32_example, decodeF32_encodeF32]

end Sys2Proof.Machine
end

section
/-! SUPPORT and PROOF. The protocol requests, outcome by outcome (41_protocol.md R122 to R150): what a transaction does
for each answer of the bus where no reset falls inside, and what each request makes of it. -/

namespace Sys2Proof.Machine

/-! ## A transaction, by the answers of the bus -/

section Outcomes

variable {s : State} {i : Instr} {cmd b c x : Bytes} {n : Nat} {fields : List Word16 → Bytes}

/-- A failed write ends a transaction of either kind with its cause and nothing after it (R126). -/
theorem busWrite_err {next : State → State} (hr : s.resetAt ≠ some .afterWrite)
    (hw : s.answerTo (.write s.cfg.devAddr cmd) = .err c) :
    busWrite cmd next s = answeredWith (drawn s (.write s.cfg.devAddr cmd (.err c))) .transportFailure c := by
  simp [busWrite_eq, hw, hr]

/-- A failed read ends the transaction with its cause (R126). -/
theorem readPhase_err (hr : s.resetAt ≠ some .afterRead) (hread : s.answerTo (.read s.cfg.devAddr n) = .err c) :
    readPhase n fields s = answeredWith (drawn s (.read s.cfg.devAddr n (.err c))) .transportFailure c := by
  simp [readPhase_eq, hread, hr]

/-- An invalid group ends the transaction with no data (R128). -/
theorem readPhase_mismatch (hr : s.resetAt ≠ some .afterRead) (hread : s.answerTo (.read s.cfg.devAddr n) = .ok b)
    (hv : ¬groupsValid (exactly n b) = true) :
    readPhase n fields s =
      answeredWith (drawn s (.read s.cfg.devAddr n (.ok (exactly n b)))) .checksumMismatch [] := by
  simp [readPhase_eq, hread, hr, hv]

/-- A written command whose read fails. -/
theorem transact_read_err (hr : s.resetAt = none) (hw : s.answerTo (.write s.cfg.devAddr cmd) = .ok x)
    (hread : (wroteAndPaused s cmd).answerTo (.read s.cfg.devAddr n) = .err c) :
    transact cmd n fields s =
      answeredWith (drawn (wroteAndPaused s cmd) (.read s.cfg.devAddr n (.err c))) .transportFailure c := by
  simp [transact_written hw (.inl hr), hread, hr]

/-- A written command whose response has an invalid group. -/
theorem transact_mismatch (hr : s.resetAt = none) (hw : s.answerTo (.write s.cfg.devAddr cmd) = .ok x)
    (hread : (wroteAndPaused s cmd).answerTo (.read s.cfg.devAddr n) = .ok b)
    (hv : ¬groupsValid (exactly n b) = true) :
    transact cmd n fields s =
      answeredWith (drawn (wroteAndPaused s cmd) (.read s.cfg.devAddr n (.ok (exactly n b)))) .checksumMismatch [] := by
  simp [transact_written hw (.inl hr), hread, hr, hv]

/-- Accepting the request does not show in a transaction, which makes the port Busy itself. -/
theorem busWrite_accept (cmd : Bytes) (next : State → State) (s : State) :
    busWrite cmd next s.accept = busWrite cmd next s := rfl

/-- An accepted request with a response runs its transaction (R122). -/
theorem exec_of_transact (hi : i.port = .host) (hrun : runOf i = transact cmd n fields) (hl : s.cfg.legal = true)
    (hp : s.portState = .idle) : exec i s = .next (transact cmd n fields s) := by
  rw [exec_idle hi hl hp, hrun, transact, transact, busWrite_accept]

/-- A request with a response, for each answer of the bus: the write fails, the read fails, a group is invalid, or the
fields are answered (R122, R126, R128). -/
theorem exec_request_outcomes (hi : i.port = .host) (hrun : runOf i = transact cmd n fields)
    (hl : s.cfg.legal = true) (hp : s.portState = .idle) :
    let a := s.cfg.devAddr
    let s1 := wroteAndPaused s cmd
    (∀ c, s.resetAt ≠ some .afterWrite → s.answerTo (.write a cmd) = .err c →
      exec i s = .next (answeredWith (drawn s (.write a cmd (.err c))) .transportFailure c)) ∧
    (∀ x c, s.resetAt = none → s.answerTo (.write a cmd) = .ok x → s1.answerTo (.read a n) = .err c →
      exec i s = .next (answeredWith (drawn s1 (.read a n (.err c))) .transportFailure c)) ∧
    (∀ x b, s.resetAt = none → s.answerTo (.write a cmd) = .ok x → s1.answerTo (.read a n) = .ok b →
      ¬groupsValid (exactly n b) = true →
      exec i s = .next (answeredWith (drawn s1 (.read a n (.ok (exactly n b)))) .checksumMismatch [])) ∧
    (∀ x b, s.resetAt = none → s.answerTo (.write a cmd) = .ok x → s1.answerTo (.read a n) = .ok b →
      groupsValid (exactly n b) = true →
      exec i s = .next (answeredWith (drawn s1 (.read a n (.ok (exactly n b)))) .ok
        (fields (dataWords (exactly n b))))) := by
  rw [exec_of_transact hi hrun hl hp]
  refine ⟨fun c hr hw => ?_, fun x c hr hw hread => ?_, fun x b hr hw hread hv => ?_, fun x b hr hw hread hv => ?_⟩
  · rw [transact, busWrite_err hr hw]
  · rw [transact_read_err hr hw hread]
  · rw [transact_mismatch hr hw hread hv]
  · rw [transact_ok hr hw hread hv]

/-- A request whose response is one group, for each answer of the bus: the group's checksum decides, and its data word
is answered (R130, R135). -/
theorem exec_oneGroup_outcomes {answer : Byte → Byte → Bytes} (hfields : ∀ b0 b1, fields [be16 b0 b1] = answer b0 b1)
    (hi : i.port = .host) (hrun : runOf i = transact cmd 3 fields) (hl : s.cfg.legal = true)
    (hp : s.portState = .idle) :
    let a := s.cfg.devAddr
    let s1 := wroteAndPaused s cmd
    (∀ c, s.resetAt ≠ some .afterWrite → s.answerTo (.write a cmd) = .err c →
      exec i s = .next (answeredWith (drawn s (.write a cmd (.err c))) .transportFailure c)) ∧
    (∀ x c, s.resetAt = none → s.answerTo (.write a cmd) = .ok x → s1.answerTo (.read a 3) = .err c →
      exec i s = .next (answeredWith (drawn s1 (.read a 3 (.err c))) .transportFailure c)) ∧
    (∀ x b b0 b1 c, s.resetAt = none → s.answerTo (.write a cmd) = .ok x → s1.answerTo (.read a 3) = .ok b →
      exactly 3 b = [b0, b1, c] → crc8 [b0, b1] ≠ c →
      exec i s = .next (answeredWith (drawn s1 (.read a 3 (.ok [b0, b1, c]))) .checksumMismatch [])) ∧
    (∀ x b b0 b1 c, s.resetAt = none → s.answerTo (.write a cmd) = .ok x → s1.answerTo (.read a 3) = .ok b →
      exactly 3 b = [b0, b1, c] → crc8 [b0, b1] = c →
      exec i s = .next (answeredWith (drawn s1 (.read a 3 (.ok [b0, b1, c]))) .ok (answer b0 b1))) := by
  obtain ⟨hwrite, hread, hbad, hok⟩ := exec_request_outcomes hi hrun hl hp
  refine ⟨hwrite, hread, fun x b b0 b1 c hr hw hb hexact hcrc => ?_, fun x b b0 b1 c hr hw hb hexact hcrc => ?_⟩
  · have h := hbad x b hr hw hb (by rwa [hexact, groupsValid_group_iff])
    rwa [hexact] at h
  · have h := hok x b hr hw hb (by rwa [hexact, groupsValid_group_iff])
    have hword : fields (dataWords [b0, b1, c]) = answer b0 b1 := hfields b0 b1
    rwa [hexact, hword] at h

end Outcomes

/-! ## The requests -/

/-- Settles O16: the one group decides, and its data word is answered byte by byte. -/
theorem fwVersionRequest : Obligations.FwVersionRequest :=
  ⟨rfl, fun _ hl hp =>
    exec_oneGroup_outcomes (i := .fwVersion) (answer := fun b0 b1 => [b0, b1]) bytes16_be16 rfl rfl hl hp⟩

/-- The ready byte of a response's data word (R136). -/
theorem readyFields_be16 (hi lo : Byte) :
    readyFields [be16 hi lo] = [if hi.toNat * 256 + lo.toNat = 1 then 0x01#8 else 0x00#8] := by
  rw [← boolByte_isReady_be16]
  rfl

/-- Settles O17: the one group decides, and its data word is compared with 1. -/
theorem measReadyRequest : Obligations.MeasReadyRequest :=
  ⟨rfl, fun _ hl hp => exec_oneGroup_outcomes (i := .measReady) readyFields_be16 rfl rfl hl hp⟩

/-- START_CONT is the wire command with the checksum of the pressure (R80, R140). -/
theorem exec_startCont {s : State} (hi lo : Byte) (hl : s.cfg.legal = true) (hp : s.portState = .idle) :
    exec (.startCont (hi ++ lo)) s = exec (.startContinuousMeasurement (hi ++ lo) (crc8 [hi, lo])) s := by
  have hbytes : bytes16 (hi ++ lo) = [hi, lo] := bytes16_be16 hi lo
  rw [exec_idle rfl hl hp, exec_wire rfl, serveWire_legal hl, ← hbytes]
  rfl

/-- Settles O18: the request ends as the wire command it uses. -/
theorem startContRequest : Obligations.StartContRequest := by
  refine ⟨fun hi lo => rfl, fun s hi lo hl hp hr => ?_, crc8_of_zeroWord,
    crc8_word (c := 0xFF#8) (by decide) (by decide)⟩
  obtain ⟨hok, herr⟩ := startContinuousMeasurementCommand s hi lo (crc8 [hi, lo]) hl hr
  rw [exec_startCont hi lo hl hp]
  exact ⟨herr, hok⟩

/-- A measurement is answered as the twelve data bytes of the response, in wire order (R150, R152). -/
theorem measFields_dataWords {g : Bytes} (h : g.length = 18) :
    measFields (dataWords g) = [0, 1, 3, 4, 6, 7, 9, 10, 12, 13, 15, 16].map fun j => g.getD j 0 := by
  have hword : ∀ k < 6, (dataWords g).getD k 0 = be16 (g.getD (3 * k) 0) (g.getD (3 * k + 1) 0) := fun k hk =>
    dataWords_getD (by omega)
  simp only [measFields, bytesOfMeasurement, measurementOfWords, hword, Nat.reduceLT, joinWords_be16, bytes32_be32]
  rfl

/-- Settles O19: the six groups of the response decide, and its data words are answered byte by byte. -/
theorem getMeasRequest : Obligations.GetMeasRequest := by
  refine ⟨rfl, fun s hl hp => ?_⟩
  obtain ⟨hwrite, hread, hbad, hok⟩ := exec_request_outcomes (i := .getMeas) rfl rfl hl hp
  have hvalid (b : Bytes) := groupsValid_exactly_iff 18 b
  refine ⟨hwrite, hread, fun x b hr hw hb hgroup => hbad x b hr hw hb fun hv => ?_, fun x b hr hw hb hgroups => ?_⟩
  · obtain ⟨k, hk, hne⟩ := hgroup
    exact hne ((hvalid b).1 hv k hk)
  · rw [← measFields_dataWords (length_exactly 18 b)]
    exact hok x b hr hw hb ((hvalid b).2 hgroups)

/-! ## The wire commands -/

/-- A wire command with a response, failing from phase WRITE or from phase READ (R122, R126, R128). -/
theorem exec_wire_failures {s : State} {i : Instr} {cmd : Bytes} {n : Nat} {fields : List Word16 → Bytes}
    (hi : i.port = .wire) (hrun : runOf i = resume cmd n fields) (hl : s.cfg.legal = true) :
    let a := s.cfg.devAddr
    (∀ c, s.resetAt ≠ some .afterWrite → s.phase = .write → s.answerTo (.write a cmd) = .err c →
      exec i s = .next (answeredWith (drawn s (.write a cmd (.err c))) .transportFailure c)) ∧
    (∀ c, s.resetAt ≠ some .afterRead → s.phase = .read → s.answerTo (.read a n) = .err c →
      exec i s = .next (answeredWith (drawn s (.read a n (.err c))) .transportFailure c)) ∧
    (∀ b, s.resetAt ≠ some .afterRead → s.phase = .read → s.answerTo (.read a n) = .ok b →
      (∃ k < n / 3, crc8 [(exactly n b).getD (3 * k) 0, (exactly n b).getD (3 * k + 1) 0] ≠
        (exactly n b).getD (3 * k + 2) 0) →
      exec i s = .next (answeredWith (drawn s (.read a n (.ok (exactly n b)))) .checksumMismatch [])) := by
  rw [exec_of_resume hi hrun hl]
  refine ⟨fun c hr hph hw => ?_, fun c hr hph hread => ?_, fun b hr hph hread hgroup => ?_⟩
  · rw [resume_first (.inr hph), transact, busWrite_err hr hw]
  · rw [resume_read hph, readPhase_err hr hread]
  · obtain ⟨k, hk, hne⟩ := hgroup
    have hv : ¬groupsValid (exactly n b) = true := fun hv => hne ((groupsValid_exactly_iff n b).1 hv k hk)
    rw [resume_read hph, readPhase_mismatch hr hread hv]

/-- Settles O24: each of the three commands resumes its own transaction. -/
theorem wireCommandFailures : Obligations.WireCommandFailures := by
  intro s i cmd n hl hi
  simp only [List.mem_cons, List.not_mem_nil, or_false, Prod.mk.injEq] at hi
  obtain ⟨rfl, rfl, rfl⟩ | ⟨rfl, rfl, rfl⟩ | ⟨rfl, rfl, rfl⟩ := hi
  · exact exec_wire_failures rfl rfl hl
  · exact exec_wire_failures rfl rfl hl
  · exact exec_wire_failures rfl rfl hl

end Sys2Proof.Machine
end

section
/-! SUPPORT and PROOF. The framer and the other units keep apart (41_protocol.md R121, R129): a protocol request writes
no block state, and the request of another unit is its own change and a response, with no bus access. -/

namespace Sys2Proof.Machine

/-- Settles O50: neither a push nor a step of the scheduler is among the instructions, so the end alone could write the
block state. -/
theorem protocolWritesNoBlockState : Obligations.ProtocolWritesNoBlockState := by
  intro s t i hi h
  have hnone : ownChange i s = s := by
    obtain hnone | ⟨co2, temp, hum, rfl⟩ | rfl := ownChange_cases i s
    · exact hnone
    · simp at hi
    · simp at hi
  obtain rfl | hends := exec_ends h
  · exact .inl ⟨rfl, rfl, rfl, rfl, rfl⟩
  · rw [hnone] at hends
    exact hends.block.imp_right fun ⟨hr, ht⟩ => ⟨.inr hr, ht⟩

/-- A request of another unit is its own change and one response (R121). -/
theorem runOf_responds {i : Instr} (hi : i.port = .host)
    (hresponse : i ∉ ([.fwVersion, .measReady, .getMeas] : List Instr)) (hstart : ∀ p, i ≠ .startCont p) (s : State) :
    ∃ st fields, runOf i s = (ownChange i s).respond st fields := by
  cases i with
  | histRead k =>
    rw [runOf_histRead]
    split
    · exact ⟨_, _, rfl⟩
    · exact ⟨_, _, rfl⟩
  | crc8 | crcCheck | histPush | histLen | histFull | histCap | schedStep | schedRead => exact ⟨_, _, rfl⟩
  | fwVersion | measReady | getMeas => simp at hresponse
  | startCont p => exact absurd rfl (hstart p)
  | readFirmwareVersion | pollReady | readMeasurement | startContinuousMeasurement => cases hi

/-- An instruction's own change reaches neither the record nor the oracle nor the host's index. -/
theorem ownChange_outside (i : Instr) (s : State) :
    (ownChange i s).events = s.events ∧ (ownChange i s).answers = s.answers ∧ (ownChange i s).draws = s.draws ∧
      (ownChange i s).pc = s.pc := by
  cases i with
  | histPush co2 temp hum => simp
  | _ => exact ⟨rfl, rfl, rfl, rfl⟩

/-- Settles O51: the accepted request makes its own change and responds. -/
theorem otherUnitsUseNoBus : Obligations.OtherUnitsUseNoBus := by
  intro s i hl hp hi hresponse hstart
  obtain ⟨st, fields, hrun⟩ := runOf_responds hi hresponse hstart s.accept
  obtain ⟨hevents, hanswers, hdraws, hpc⟩ := ownChange_outside i s.accept
  refine ⟨_, st, fields, (exec_idle hi hl hp).trans (congrArg _ hrun), ?_, hanswers, hdraws, rfl, ?_⟩
  · rw [State.respond_events, hevents, State.accept_events]
  · rw [State.respond_pc, hpc, State.accept_pc]

end Sys2Proof.Machine
end

section
/-! SUPPORT and PROOF. The history's requests (42_history.md R160, R161, R163, R164, R166, R170, R171). A push keeps the
last `HIST_CAP` of the sequence with the new entry after it (`pushEntry_history_eq_rtake`), and reads answer entries and
keep the ring; both are carried along `runAll`. -/

namespace Sys2Proof.Machine

/-! ## What each request answers on an Idle port -/

section Requests

variable {s : State} (hl : s.cfg.legal = true) (hp : s.portState = .idle)
include hl hp

/-- HIST_PUSH writes its entry and answers OK with no data (R160). -/
theorem exec_histPush (co2 temp hum : Word32) :
    exec (.histPush co2 temp hum) s = .next (answeredWith (s.pushEntry ⟨co2, temp, hum⟩) .ok []) := by
  rw [exec_idle rfl hl hp, ← answeredWith_accept (s.pushEntry _), ← pushEntry_accept]
  rfl

/-- HIST_LEN answers the count (R163). -/
theorem exec_histLen : exec .histLen s = .next (answeredWith s .ok (bytes16 s.histCount)) := exec_idle rfl hl hp

/-- HIST_FULL answers a Boolean (R164). -/
theorem exec_histFull : exec .histFull s = .next (answeredWith s .ok [boolByte s.isFull]) := exec_idle rfl hl hp

/-- HIST_CAP answers the capacity (R170). -/
theorem exec_histCap : exec .histCap s = .next (answeredWith s .ok (bytes16 s.cfg.histCap)) := exec_idle rfl hl hp

/-- HIST_READ at or past the count answers INDEX_RANGE (R205). -/
theorem exec_histRead_of_le {k : Word16} (hk : s.histCount.toNat ≤ k.toNat) :
    exec (.histRead k) s = .next (answeredWith s .indexRange []) := by
  rw [exec_idle rfl hl hp, runOf_histRead, State.accept_histCount, if_pos hk]
  rfl

/-- HIST_READ below the count answers the entry at the position (R166). -/
theorem exec_histRead_of_lt {k : Word16} (hk : k.toNat < s.histCount.toNat) :
    exec (.histRead k) s = .next (answeredWith s .ok (bytesOfMeasurement (s.entryAt k.toNat))) := by
  rw [exec_idle rfl hl hp, runOf_histRead, State.accept_histCount, if_neg (not_le.2 hk)]
  rfl

end Requests

/-- The history is full exactly when the count is the capacity (R28, R164). -/
theorem State.isFull_iff {s : State} : s.isFull = true ↔ s.histCount = s.cfg.histCap := beq_iff_eq

/-- The byte that HIST_FULL answers (R77, R164). -/
theorem boolByte_isFull (s : State) :
    boolByte s.isFull = if s.histCount = s.cfg.histCap then 0x01#8 else 0x00#8 := by
  simp only [boolByte, State.isFull_iff]
  rfl

/-- A slot that holds an entry reads as that entry (R25). -/
theorem read_eq_readSlot {s : State} {j : Nat} (h : (Memory.read s.histSlot j).isSome = true) :
    Memory.read s.histSlot j = some (s.readSlot j) := by
  obtain ⟨m, hm⟩ := Option.isSome_iff_exists.1 h
  rw [State.readSlot, hm]

/-! ## The statements about one request -/

/-- Settles O29: the run is `pushEntry`, and both of its branches write one slot. -/
theorem histPushRequest : Obligations.HistPushRequest := by
  refine ⟨fun _ _ _ _ _ _ _ _ _ _ _ _ => rfl, fun s co2 temp hum hl hp => ⟨fun h => ?_, fun h => ?_⟩⟩
  · exact ⟨_, fun k => Memory.read_write _ _ k _, by rw [exec_histPush hl hp, pushEntry_notFull h]; rfl⟩
  · exact ⟨_, fun k => Memory.read_write _ _ k _, by rw [exec_histPush hl hp, pushEntry_full h]; rfl⟩

/-- Settles O32: a well-formed ring has no position at or past the capacity, and an entry at each of its own. -/
theorem histReadRequest : Obligations.HistReadRequest := by
  refine ⟨fun _ _ => rfl, fun s i hl hp => ⟨exec_histRead_of_le hl hp, fun hi => ?_, fun hs hi => ?_, fun hs hi => ?_⟩⟩
  · rw [List.append_assoc]
    exact exec_histRead_of_lt hl hp hi
  · exact exec_histRead_of_le hl hp ((historyOk_iff.1 hs).count.trans hi)
  · exact read_eq_readSlot ((historyOk_iff.1 hs).entries i.toNat hi)

/-- Settles O34: a well-formed ring holds no more than its capacity. -/
theorem histLenRequest : Obligations.HistLenRequest :=
  ⟨rfl, fun _ hl hp => exec_histLen hl hp, rfl, fun _ hs => ⟨(historyOk_iff.1 hs).count, State.isFull_iff.1⟩⟩

/-- Settles O35: the answered byte is `boolByte_isFull`. -/
theorem histFullRequest : Obligations.HistFullRequest := by
  refine ⟨rfl, fun s hl hp => ⟨fun h => ?_, fun h => ?_⟩⟩
  · rw [exec_histFull hl hp, boolByte_isFull, if_pos h]
  · rw [exec_histFull hl hp, boolByte_isFull, if_neg h]

/-- Settles O36: a legal capacity is a 16-bit word other than 0, and no step changes the configuration. -/
theorem histCapRequest : Obligations.HistCapRequest :=
  ⟨rfl, fun s hl => ⟨exec_histCap hl, histCap_pos_of_legal hl, Nat.le_of_lt_succ s.cfg.histCap.isLt,
    fun t ht => congrArg Config.histCap (configurationNeverChanges s t ht)⟩⟩

/-! ## A push on the sequence -/

/-- A response leaves the ring. -/
theorem sameRing_answeredWith (s : State) (st : Status) (fields : Bytes) : SameRing s (answeredWith s st fields) :=
  ⟨rfl, rfl, rfl, rfl⟩

/-- The ring is part of the block state. -/
theorem sameRing_of_sameBlockState {s t : State} (hcfg : t.cfg = s.cfg) (hblock : sameBlockState s t) :
    SameRing s t := by
  obtain ⟨-, -, hslot, hhead, hcount⟩ := hblock
  exact ⟨hcfg, hslot, hhead, hcount⟩

/-- Settles O30: `pushEntry_history` and `pushEntry_ringOk`, seen through the response. -/
theorem histPushSequence : Obligations.HistPushSequence := by
  intro s co2 temp hum hl hp hs
  have hring := historyOk_iff.1 hs
  have hpushed := pushEntry_ringOk hring ⟨co2, temp, hum⟩
  have hsame := sameRing_answeredWith (s.pushEntry ⟨co2, temp, hum⟩) .ok []
  refine ⟨_, exec_histPush hl hp co2 temp hum, ?_, ?_, ?_, ?_⟩
  · rw [hsame.historyOk]
    exact historyOk_iff.2 hpushed
  · rw [hsame.history, State.length_history]
    exact pushEntry_history hring _
  · rw [State.length_history]
    exact hring.count
  · rw [hsame.history, State.length_history, ← State.pushEntry_cfg s ⟨co2, temp, hum⟩]
    exact hpushed.count

/-- The last `n` of a list are all of one that is no longer. -/
theorem rtake_of_length_le {α : Type} {l : List α} {n : Nat} (h : l.length ≤ n) : l.rtake n = l := by
  rw [List.rtake, Nat.sub_eq_zero_of_le h, List.drop_zero]

/-- What is dropped before an append is dropped after it as well. -/
theorem rtake_rtake_append {α : Type} (l l' : List α) (n : Nat) : (l.rtake n ++ l').rtake n = (l ++ l').rtake n := by
  simp only [List.rtake_eq_reverse_take_reverse, List.reverse_append, List.reverse_reverse, List.take_append,
    List.take_take]
  rw [Nat.min_eq_left (Nat.sub_le _ _)]

/-- A push appends the entry and keeps the last `HIST_CAP` (R161). -/
theorem pushEntry_history_eq_rtake {s : State} (hs : RingOk s) (m : Measurement) :
    (s.pushEntry m).history = (s.history ++ [m]).rtake s.cfg.histCap.toNat := by
  have hcount := hs.count
  rw [pushEntry_history hs]
  split
  · rw [rtake_of_length_le]
    simpa
  · have hdrop : (s.history ++ [m]).length - s.cfg.histCap.toNat = 1 := by
      simp only [List.length_append, State.length_history, List.length_singleton]
      omega
    have hne : s.history ≠ [] := by
      have hhead := hs.head
      rw [← List.length_pos_iff, State.length_history]
      omega
    rw [List.rtake, hdrop, List.drop_one, List.tail_append_of_ne_nil hne]

/-! ## Requests one after another -/

/-- A request that answers is followed by the rest. -/
theorem runAll_cons {i : Instr} {s u : State} (h : exec i s = .next u) (rest : List Instr) :
    runAll (i :: rest) s = runAll rest u := by
  simp only [runAll, h]

/-- Pushes one after another keep the last `HIST_CAP` of the sequence and the new entries after it (R161). -/
theorem runAll_pushes (ms : List Measurement) {s : State} (hl : s.cfg.legal = true) (hp : s.portState = .idle)
    (hs : RingOk s) :
    ∃ t, runAll (ms.map fun m => .histPush m.co2 m.temp m.hum) s = .next t ∧ t.cfg = s.cfg ∧ t.portState = .idle ∧
      t.history = (s.history ++ ms).rtake s.cfg.histCap.toNat := by
  induction ms generalizing s with
  | nil =>
    refine ⟨s, rfl, rfl, hp, ?_⟩
    rw [List.append_nil, rtake_of_length_le]
    simpa using hs.count
  | cons m ms ih =>
    have hsame := sameRing_answeredWith (s.pushEntry m) .ok []
    have hcfg : (answeredWith (s.pushEntry m) .ok []).cfg = s.cfg := State.pushEntry_cfg s m
    have hring : RingOk (answeredWith (s.pushEntry m) .ok []) :=
      historyOk_iff.1 (hsame.historyOk.trans (historyOk_iff.2 (pushEntry_ringOk hs m)))
    obtain ⟨t, hrun, htcfg, hport, hhist⟩ := ih (hcfg ▸ hl) rfl hring
    refine ⟨t, (runAll_cons (exec_histPush hl hp m.co2 m.temp m.hum) _).trans hrun, htcfg.trans hcfg, hport, ?_⟩
    rw [hhist, hcfg, hsame.history, pushEntry_history_eq_rtake hs, rtake_rtake_append, List.append_assoc]
    rfl

/-- Settles O31: the ring is empty at reset, so the pushed entries are the whole of what `runAll_pushes` keeps the last
ones of. -/
theorem histPushesFromReset : Obligations.HistPushesFromReset := by
  intro c ms hl n
  have hreset : RingOk { State.reset with cfg := c } :=
    historyOk_iff.1 (historyOk_abandoned (s := { State.reset with cfg := c }) (histCap_pos_of_legal hl))
  obtain ⟨t, hrun, hcfg, hport, hhist⟩ := runAll_pushes ms (s := { State.reset with cfg := c }) hl rfl hreset
  replace hcfg : t.cfg = c := hcfg
  replace hhist : t.history = ms.drop (ms.length - n) := hhist
  have hcount : t.histCount.toNat = min ms.length n := by
    rw [← State.length_history, hhist, List.length_drop]
    omega
  have hfull : t.histCount = t.cfg.histCap ↔ n ≤ ms.length := by
    rw [← BitVec.toNat_inj, hcount, hcfg]
    exact min_eq_right_iff
  refine ⟨t, hrun, hcount, ?_, ?_⟩
  · rw [hhist]
    congr 1
    omega
  · rw [exec_histFull (hcfg ▸ hl) hport, boolByte_isFull]
    simp only [hfull]

/-- Reads at positions that hold an entry answer those entries and keep the block state (R166, R167). -/
theorem runAll_reads (ks : List Nat) {s : State} (hl : s.cfg.legal = true) (hp : s.portState = .idle)
    (hks : ∀ k ∈ ks, k < s.histCount.toNat) :
    ∃ t, runAll (ks.map fun k => .histRead (BitVec.ofNat 16 k)) s = .next t ∧
      t.events = s.events ++ ks.map (fun k => .resp .ok (bytesOfMeasurement (s.entryAt k))) ∧
      t.cfg = s.cfg ∧ sameBlockState s t ∧ t.portState = .idle := by
  induction ks generalizing s with
  | nil => exact ⟨s, rfl, (List.append_nil _).symm, rfl, ⟨rfl, rfl, rfl, rfl, rfl⟩, hp⟩
  | cons k ks ih =>
    have hk : k < s.histCount.toNat := hks k List.mem_cons_self
    have hnat : (BitVec.ofNat 16 k).toNat = k :=
      (BitVec.toNat_ofNat _ _).trans (Nat.mod_eq_of_lt (hk.trans s.histCount.isLt))
    have hexec := exec_histRead_of_lt hl hp (k := BitVec.ofNat 16 k) (hnat.symm ▸ hk)
    rw [hnat] at hexec
    obtain ⟨t, hrun, hevents, hcfg, hblock, hport⟩ :=
      ih (s := answeredWith s .ok (bytesOfMeasurement (s.entryAt k))) hl rfl
        fun j hj => hks j (List.mem_cons_of_mem k hj)
    refine ⟨t, (runAll_cons hexec _).trans hrun, ?_, hcfg, hblock, hport⟩
    rw [hevents, (sameRing_answeredWith s .ok (bytesOfMeasurement (s.entryAt k))).entryAt]
    exact List.append_assoc _ _ _

/-- Settles O33: every position below the count is read once, and the ring is as before. -/
theorem histIterationReadsSequence : Obligations.HistIterationReadsSequence := by
  intro s hl hp _
  obtain ⟨t, hrun, hevents, hcfg, hblock, hport⟩ :=
    runAll_reads (List.range s.histCount.toNat) hl hp fun _ => List.mem_range.1
  refine ⟨t, hrun, ?_, (sameRing_of_sameBlockState hcfg hblock).history, hblock, hport⟩
  rw [hevents, State.history, List.map_map]
  rfl

end Sys2Proof.Machine
end

section
/-! SUPPORT and PROOF. The scheduler's requests (43_scheduler.md R180, R181, R182, R184, R185). SCHED_STEP is
`stepScheduler` and a response; what `step_ends` says a step can do leaves the scheduler, unless the frame is that
request, and the count is carried along `runAll`. -/

namespace Sys2Proof.Machine

/-! ## The selection -/

/-- Full is selected exactly at the multiples of the modulus (R181). -/
theorem select_eq_full_iff {k c : Word32} : select k c = .full ↔ c.toNat % k.toNat = 0 := by
  unfold select
  split_ifs with h
  · exact iff_of_true rfl h
  · exact iff_of_false (by decide) h

/-- A mode is Full or Quick, and so are its bytes (R77). -/
theorem modeByte_eq (m : Mode) : modeByte m = if m = .full then 0x00#8 else 0x01#8 := by
  cases m <;> rfl

/-- The byte SCHED_STEP answers, by the count before the increment (R77, R181). -/
theorem modeByte_select (k c : Word32) :
    modeByte (select k c) = if c.toNat % k.toNat = 0 then 0x00#8 else 0x01#8 := by
  simp only [modeByte_eq, select_eq_full_iff]

/-! ## What each request answers on an Idle port -/

section Requests

variable {s : State} (hl : s.cfg.legal = true) (hp : s.portState = .idle)
include hl hp

/-- SCHED_STEP steps the scheduler and answers the mode just stored (R180). -/
theorem exec_schedStep :
    exec .schedStep s = .next (answeredWith s.stepScheduler .ok [modeByte s.stepScheduler.mode]) := exec_idle rfl hl hp

/-- SCHED_READ answers the count and the stored mode (R184). -/
theorem exec_schedRead :
    exec .schedRead s = .next (answeredWith s .ok (bytes32 s.updateCount ++ [modeByte s.mode])) := exec_idle rfl hl hp

end Requests

/-- Settles O39: the stored and the answered mode are both `select` of the count before the increment, which is decided
by the remainder. -/
theorem schedStepRequest : Obligations.SchedStepRequest := by
  refine ⟨rfl, fun s hl hp => ⟨fun h => ?_, fun h => ?_⟩, fun c => ?_, fun k => ?_, fun c => BitVec.toNat_add c 1,
    fun _ => rfl⟩
  · have hmode : select s.cfg.refreshK s.updateCount = .full := select_eq_full_iff.2 h
    rw [exec_schedStep hl hp, State.stepScheduler, hmode]
    rfl
  · have hmode : select s.cfg.refreshK s.updateCount = .quick := if_neg h
    rw [exec_schedStep hl hp, State.stepScheduler, hmode]
    rfl
  · exact select_eq_full_iff.2 (Nat.mod_one c.toNat)
  · exact select_eq_full_iff.2 (Nat.zero_mod k.toNat)

/-- Settles O40: the four bytes of the count are `bytes32`. -/
theorem schedReadRequest : Obligations.SchedReadRequest := by
  refine ⟨rfl, fun s hl hp => ?_⟩
  rw [exec_schedRead hl hp, modeByte_eq]
  rfl

/-! ## When the counter moves -/

/-- A frame's change leaves the scheduler, unless the frame is a SCHED_STEP (R182). -/
theorem FrameChange.scheduler {s s' : State} (h : FrameChange s s') :
    (s'.updateCount = s.updateCount ∧ s'.mode = s.mode) ∨
      s.portState = .idle ∧ s.program[s.pc]? = some [0x30#8] := by
  obtain rfl | ⟨f, i, hp, hf, hd, rfl⟩ := h
  · exact .inl ⟨rfl, rfl⟩
  · obtain hnone | ⟨co2, temp, hum, rfl⟩ | rfl := ownChange_cases i s
    · exact .inl (by rw [hnone]; exact ⟨rfl, rfl⟩)
    · exact .inl ⟨State.pushEntry_updateCount s _, State.pushEntry_mode s _⟩
    · obtain ⟨-, rfl⟩ := encode_of_decodeHost hd
      exact .inr ⟨hp, hf⟩

/-- A step on any other frame, or on a Busy port, keeps the scheduler or takes a reset (R182). -/
theorem step_keeps_scheduler {s t : State} (h : step s = .next t)
    (hother : ¬(s.portState = .idle ∧ s.program[s.pc]? = some [0x30#8])) :
    t.updateCount = s.updateCount ∧ t.mode = s.mode ∨ tookReset s t := by
  obtain ⟨hr, rfl⟩ | ⟨s', hchange, hends⟩ := step_ends h
  · exact .inr ⟨.inl hr, rfl⟩
  obtain ⟨hcount, hmode, -⟩ | ⟨hr, ht⟩ := hends.block
  · obtain ⟨kcount, kmode⟩ | hframe := hchange.scheduler
    · exact .inl ⟨hcount.trans kcount, hmode.trans kmode⟩
    · exact absurd hframe hother
  · obtain ⟨-, hreset, -⟩ := hchange.outside
    exact .inr ⟨.inr (hreset ▸ hr), ht⟩

/-- A step on a SCHED_STEP frame steps the scheduler; no reset falls inside a request without a bus access (R182). -/
theorem step_schedStep {s t : State} (hr : s.resetIn = false) (h : step s = .next t) (hp : s.portState = .idle)
    (hf : s.program[s.pc]? = some [0x30#8]) : t.updateCount = s.updateCount + 1 := by
  obtain ⟨hl, -⟩ := step_next h
  rw [stepRunsHostRequest s _ .schedStep hl hr hp hf rfl, exec_schedStep hl hp] at h
  cases h
  rfl

/-- Settles O42: the two kinds of step, and the counts around the wrap evaluated. -/
theorem counterMovesOnlyBySchedStep : Obligations.CounterMovesOnlyBySchedStep :=
  ⟨fun _ _ hr h => ⟨fun ⟨hp, hf⟩ => step_schedStep hr h hp hf, step_keeps_scheduler h⟩, by decide, by decide⟩

/-! ## The cadence -/

/-- Each of `j` SCHED_STEPs adds one to the count, modulo `2 ^ 32` (R182). -/
theorem runAll_schedSteps (j : Nat) {s : State} (hl : s.cfg.legal = true) (hp : s.portState = .idle) :
    ∃ t, runAll (List.replicate j .schedStep) s = .next t ∧ t.cfg = s.cfg ∧ t.portState = .idle ∧
      t.updateCount.toNat = (s.updateCount.toNat + j) % 2 ^ 32 := by
  induction j generalizing s with
  | zero => exact ⟨s, rfl, rfl, hp, (Nat.mod_eq_of_lt s.updateCount.isLt).symm⟩
  | succ j ih =>
    obtain ⟨t, hrun, hcfg, hport, hcount⟩ :=
      ih (s := answeredWith s.stepScheduler .ok [modeByte s.stepScheduler.mode]) hl rfl
    refine ⟨t, (runAll_cons (exec_schedStep hl hp) _).trans hrun, hcfg, hport, ?_⟩
    have hstep : (s.updateCount + 1).toNat = (s.updateCount.toNat + 1) % 2 ^ 32 := BitVec.toNat_add _ _
    calc t.updateCount.toNat = ((s.updateCount + 1).toNat + j) % 2 ^ 32 := hcount
      _ = (s.updateCount.toNat + (j + 1)) % 2 ^ 32 := by omega

/-- Settles O41: the count is 0 at reset, so after `j` requests it is `j` modulo `2 ^ 32`, and the next one answers its
mode. -/
theorem schedulerCadenceFromReset : Obligations.SchedulerCadenceFromReset := by
  intro c j hl
  obtain ⟨t, hrun, hcfg, hport, hcount⟩ := runAll_schedSteps j (s := { State.reset with cfg := c }) hl rfl
  replace hcfg : t.cfg = c := hcfg
  replace hcount : t.updateCount.toNat = j % 2 ^ 32 := hcount.trans (congrArg (· % 2 ^ 32) (Nat.zero_add j))
  refine ⟨t, _, hrun, exec_schedStep (hcfg ▸ hl) hport, hcount, ?_⟩
  rw [← hcount, ← hcfg, ← modeByte_select]
  rfl

end Sys2Proof.Machine
end

section
/-! SUPPORT and PROOF. No run stops (60_exceptions.md R207, 70_reset_and_hazards.md R221, R224): the invariant holds of
every reachable state, and a state of the invariant has a next step. -/

namespace Sys2Proof.Machine

/-- Settles O54: the step that the invariant gives is one more step of the run. -/
theorem reachableNeverStops : Obligations.ReachableNeverStops := by
  intro s hs
  obtain ⟨t, hstep, -⟩ := stepKeepsInvariant s hs.inv
  exact ⟨hs.inv, t, hstep, hs.step hstep⟩

end Sys2Proof.Machine
end

section
/-! SUPPORT and PROOF. The configuration's bounds and the reset input between steps (00_scope.md R6,
70_reset_and_hazards.md R220, R221, R223): what is never run, and the state that a taken reset leaves. -/

namespace Sys2Proof.Machine

/-! ## The configuration -/

/-- `legal` checks the bounds of R6; the address is in range by its width. -/
theorem legal_iff {c : Config} :
    c.legal = true ↔
      1 ≤ c.histCap.toNat ∧ 1 ≤ c.refreshK.toNat ∧ 0 < c.tPause ∧ c.devAddr.toNat ≤ 0x7F := by
  have haddr : c.devAddr.toNat < 2 ^ 7 := c.devAddr.isLt
  have hcap : c.histCap = 0 ↔ c.histCap.toNat = 0 := BitVec.toNat_inj.symm
  have hk : c.refreshK = 0 ↔ c.refreshK.toNat = 0 := BitVec.toNat_inj.symm
  simp only [Config.legal, Bool.and_eq_true, Bool.not_eq_true', beq_eq_false_iff_ne, ne_eq, hcap, hk]
  omega

/-- The configuration the block is built with is legal: each bounded value is one more than a number (R6). -/
theorem legal_built : Config.built.legal = true := by
  have haddr : Config.built.devAddr.toNat < 2 ^ 7 := Config.built.devAddr.isLt
  exact legal_iff.2 ⟨Nat.succ_pos _, Nat.succ_pos _, Nat.succ_pos _, by omega⟩

/-- An illegal configuration runs no instruction (R223). -/
theorem exec_illegal {s : State} (i : Instr) (hl : s.cfg.legal = false) :
    exec i s = .refused .illegalConfiguration := by
  cases hp : i.port with
  | host => rw [exec_host hp, serve_illegal hl]
  | wire => rw [exec_wire hp, serveWire_illegal hl]

/-- An illegal configuration takes no step, whatever stands next and whatever the reset input (R223). -/
theorem step_illegal {s : State} (hl : s.cfg.legal = false) : step s = .refused .illegalConfiguration := by
  simp [step, hl]

/-- Settles O47: under a legal configuration every instruction answers a next state, which is no refusal. -/
theorem illegalConfigurationRefused : Obligations.IllegalConfigurationRefused := by
  refine fun s => ⟨legal_iff, fun hl => ⟨step_illegal hl, fun i => exec_illegal i hl⟩, fun hl i r hrefused => ?_⟩
  obtain ⟨t, hnext⟩ := exec_answers i hl
  cases hrefused.symm.trans hnext

/-! ## The reset input between steps -/

/-- A reset empties the history (R220). -/
@[simp] theorem State.takeReset_history (s : State) : s.takeReset.history = [] := rfl

/-- Settles O44: a step with the input asserted answers `takeReset`. -/
theorem resetValues : Obligations.ResetValues := by
  refine ⟨fun t ht => ?_, fun s hl hr => ⟨_, step_of_resetIn hl hr, State.takeReset_cfg s⟩⟩
  obtain rfl | ⟨s, hl, hr, hstep⟩ := ht
  · exact ⟨rfl, rfl, rfl, rfl, rfl, rfl⟩
  · cases (step_of_resetIn hl hr).symm.trans hstep
    simp

/-- Settles O45: the next state is `takeReset`, whose record and whose host fields are those from before. -/
theorem resetAbandonsRequest : Obligations.ResetAbandonsRequest :=
  fun s hl hr => ⟨s.takeReset, step_of_resetIn hl hr, by simp⟩

/-- Settles O52: the configuration at power-on is one of the legal ones. -/
theorem resetHasInvariant : Obligations.ResetHasInvariant := ⟨inv_reset legal_built, fun _ hl => inv_reset hl⟩

end Sys2Proof.Machine
end

section
/-! SUPPORT and PROOF. A reset inside a transaction (70_reset_and_hazards.md R221, 41_protocol.md R122, R124): at each
instant the request is abandoned, and the record keeps what was done on the bus. -/

namespace Sys2Proof.Machine

/-! ## A transaction, by the instant of the reset -/

section Instants

variable {s : State} {i : Instr} {cmd b c x : Bytes} {n : Nat} {fields : List Word16 → Bytes}

/-- A reset after a successful write, in a transaction of either kind. -/
theorem busWrite_ok_reset {next : State → State} (hr : s.resetAt = some .afterWrite)
    (hw : s.answerTo (.write s.cfg.devAddr cmd) = .ok x) :
    busWrite cmd next s = abandoned (drawn s (.write s.cfg.devAddr cmd .ok)) := by
  simp [busWrite_eq, hw, hr]

/-- A reset after a failed write, in a transaction of either kind: the cause is not answered. -/
theorem busWrite_err_reset {next : State → State} (hr : s.resetAt = some .afterWrite)
    (hw : s.answerTo (.write s.cfg.devAddr cmd) = .err c) :
    busWrite cmd next s = abandoned (drawn s (.write s.cfg.devAddr cmd (.err c))) := by
  simp [busWrite_eq, hw, hr]

/-- A reset after the pause: nothing is read. -/
theorem transact_reset_afterPause (hr : s.resetAt = some .afterPause)
    (hw : s.answerTo (.write s.cfg.devAddr cmd) = .ok x) :
    transact cmd n fields s = abandoned (wroteAndPaused s cmd) := by
  simp [transact_eq, hw, hr]

/-- A reset after a successful read: its groups are not checked. -/
theorem readPhase_ok_reset (hr : s.resetAt = some .afterRead) (hread : s.answerTo (.read s.cfg.devAddr n) = .ok b) :
    readPhase n fields s = abandoned (drawn s (.read s.cfg.devAddr n (.ok (exactly n b)))) := by
  simp [readPhase_eq, hread, hr]

/-- A reset after a failed read: the cause is not answered. -/
theorem readPhase_err_reset (hr : s.resetAt = some .afterRead) (hread : s.answerTo (.read s.cfg.devAddr n) = .err c) :
    readPhase n fields s = abandoned (drawn s (.read s.cfg.devAddr n (.err c))) := by
  simp [readPhase_eq, hread, hr]

/-- A reset after the successful read of a whole transaction. -/
theorem transact_ok_reset (hr : s.resetAt = some .afterRead) (hw : s.answerTo (.write s.cfg.devAddr cmd) = .ok x)
    (hread : (wroteAndPaused s cmd).answerTo (.read s.cfg.devAddr n) = .ok b) :
    transact cmd n fields s =
      abandoned (drawn (wroteAndPaused s cmd) (.read s.cfg.devAddr n (.ok (exactly n b)))) := by
  simp [transact_written hw (.inr hr), hread, hr]

/-- A reset after the failed read of a whole transaction. -/
theorem transact_read_err_reset (hr : s.resetAt = some .afterRead)
    (hw : s.answerTo (.write s.cfg.devAddr cmd) = .ok x)
    (hread : (wroteAndPaused s cmd).answerTo (.read s.cfg.devAddr n) = .err c) :
    transact cmd n fields s = abandoned (drawn (wroteAndPaused s cmd) (.read s.cfg.devAddr n (.err c))) := by
  simp [transact_written hw (.inr hr), hread, hr]

/-! ## The instructions with a response -/

/-- Each of the three protocol requests with a response runs a transaction of its command and length (R123). -/
theorem runOf_request
    (h : (i, cmd, n) ∈ ([(.fwVersion, [0xD1#8, 0x00#8], 3), (.measReady, [0x02#8, 0x02#8], 3),
      (.getMeas, [0x03#8, 0x00#8], 18)] : List (Instr × Bytes × Nat))) :
    i.port = .host ∧ ∃ fields, runOf i = transact cmd n fields := by
  simp only [List.mem_cons, List.not_mem_nil, or_false, Prod.mk.injEq] at h
  obtain ⟨rfl, rfl, rfl⟩ | ⟨rfl, rfl, rfl⟩ | ⟨rfl, rfl, rfl⟩ := h
  · exact ⟨rfl, fwFields, rfl⟩
  · exact ⟨rfl, readyFields, rfl⟩
  · exact ⟨rfl, measFields, rfl⟩

/-- Each of the three wire commands with a response goes on with its own transaction (R80, R123). -/
theorem runOf_command
    (h : (i, cmd, n) ∈ ([(.readFirmwareVersion, [0xD1#8, 0x00#8], 3), (.pollReady, [0x02#8, 0x02#8], 3),
      (.readMeasurement, [0x03#8, 0x00#8], 18)] : List (Instr × Bytes × Nat))) :
    i.port = .wire ∧ ∃ fields, runOf i = resume cmd n fields := by
  simp only [List.mem_cons, List.not_mem_nil, or_false, Prod.mk.injEq] at h
  obtain ⟨rfl, rfl, rfl⟩ | ⟨rfl, rfl, rfl⟩ | ⟨rfl, rfl, rfl⟩ := h
  · exact ⟨rfl, fwFields, rfl⟩
  · exact ⟨rfl, readyFields, rfl⟩
  · exact ⟨rfl, measFields, rfl⟩

end Instants

/-- Settles O57: from its first phase each of the six instructions is `transact`, and from phase READ each of the
commands is `readPhase`; those end as the instant of the reset says. -/
theorem resetInsideTransaction : Obligations.ResetInsideTransaction := by
  intro s i cmd n hl a s1 requests commands starts reads
  have hstarts : starts → ∃ fields, exec i s = .next (transact cmd n fields s) := by
    rintro (⟨hi, hp⟩ | ⟨hi, hph⟩)
    · obtain ⟨hport, fields, hrun⟩ := runOf_request hi
      exact ⟨fields, exec_of_transact hport hrun hl hp⟩
    · obtain ⟨hport, fields, hrun⟩ := runOf_command hi
      exact ⟨fields, resume_first hph ▸ exec_of_resume hport hrun hl⟩
  have hreads : reads → ∃ fields, exec i s = .next (readPhase n fields s) := by
    rintro ⟨hi, hph⟩
    obtain ⟨hport, fields, hrun⟩ := runOf_command hi
    exact ⟨fields, resume_read hph ▸ exec_of_resume hport hrun hl⟩
  refine ⟨fun x h hr hw => ?_, fun c h hr hw => ?_, fun x h hr hw => ?_, fun x b h hr hw hread => ?_,
    fun x c h hr hw hread => ?_, fun b h hr hread => ?_, fun c h hr hread => ?_⟩
  · obtain ⟨fields, hexec⟩ := hstarts h
    rw [hexec, transact, busWrite_ok_reset hr hw]
  · obtain ⟨fields, hexec⟩ := hstarts h
    rw [hexec, transact, busWrite_err_reset hr hw]
  · obtain ⟨fields, hexec⟩ := hstarts h
    rw [hexec, transact_reset_afterPause hr hw]
  · obtain ⟨fields, hexec⟩ := hstarts h
    rw [hexec, transact_ok_reset hr hw hread]
  · obtain ⟨fields, hexec⟩ := hstarts h
    rw [hexec, transact_read_err_reset hr hw hread]
  · obtain ⟨fields, hexec⟩ := hreads h
    rw [hexec, readPhase_ok_reset hr hread]
  · obtain ⟨fields, hexec⟩ := hreads h
    rw [hexec, readPhase_err_reset hr hread]

/-! ## The command without a response -/

/-- The wire command's write is its whole transaction (R124). -/
theorem exec_startContinuousMeasurement {s : State} (hi lo c : Byte) (hl : s.cfg.legal = true) :
    exec (.startContinuousMeasurement (hi ++ lo) c) s = .next (writeOnly [0x00#8, 0x10#8, hi, lo, c] s) := by
  rw [exec_wire rfl, serveWire_legal hl, ← encode_startContinuousMeasurement]
  rfl

/-- Settles O58: START_CONT ends as the wire command with its checksum, which is a write alone. -/
theorem resetInsideWriteOnly : Obligations.ResetInsideWriteOnly := by
  intro s hi lo c i hl hr hi' a cmd
  have hexec : exec i s = .next (writeOnly cmd s) := by
    obtain ⟨rfl, rfl, hp⟩ | rfl := hi'
    · rw [exec_startCont hi lo hl hp, exec_startContinuousMeasurement hi lo _ hl]
    · exact exec_startContinuousMeasurement hi lo c hl
  rw [hexec, writeOnly]
  refine ⟨fun x hw => ?_, fun e hw => ?_⟩
  · rw [busWrite_ok_reset hr hw]
  · rw [busWrite_err_reset hr hw]

end Sys2Proof.Machine
end
